-- ==== Sys2Proof/Word.lean ====
section
/-! DEFINITION. The widths and index ranges that the manual's principal quantities (00_scope 4.2) give. -/

namespace Sys2Proof

/-- One byte of the window, the buffer memory or the line. -/
abbrev Byte := BitVec 8

/-- A 16-bit quantity: tags, counters, check values, leases, periods. -/
abbrev Word16 := BitVec 16

/-- Host ports, and so hosts, 0–3. -/
abbrev HostId := Fin 4

/-- Exchange slots 0–31. -/
abbrev SlotNo := Fin 32

/-- Buffers 0–95. -/
abbrev BufNo := Fin 96

/-- Poll entries 0–15. -/
abbrev EntryNo := Fin 16

/-- The 31 station records; record `n` is that of station address `n + 1` (R21). -/
abbrev StationNo := Fin 31

/-- Station addresses 0–31; 0 is the broadcast address. -/
abbrev StationAddr := Fin 32

/-- A table of a fixed number of like things. -/
abbrev Table (α : Type) (n : Nat) := Vector α n

/-- The station address of a station record. -/
def StationNo.address (n : StationNo) : StationAddr := ⟨n.val + 1, by omega⟩

/-- The station record of an address; the broadcast address has none (R21). -/
def StationAddr.record (a : StationAddr) : Option StationNo :=
  if h : a.val = 0 then none else some ⟨a.val - 1, by omega⟩

end Sys2Proof
end

