-- ==== Sys2Proof/Syntax.lean ====
section
/-! DEFINITION. The commands of the KL-4: one constructor for each row of spec/opcode_table.json, in the table's order. A host command takes its arguments from its host's parameter area (R170), so its constructor names the host only. -/

namespace Sys2Proof

/-- One whole step of the part (spec/95, first lines). -/
inductive Instr where
  | bufAlloc (h : HostId)
  | bufFree (h : HostId)
  | submit (h : HostId)
  | cancel (h : HostId)
  | readExchange (h : HostId)
  | readStation (h : HostId)
  | subscribe (h : HostId)
  | unsubscribe (h : HostId)
  | revive (h : HostId)
  | hold (h : HostId)
  | release (h : HostId)
  | pollStart (h : HostId)
  | pollRetime (h : HostId)
  | pollStop (h : HostId)
  | readPoll (h : HostId)
  | popCompletion (h : HostId)
  | setSettings (h : HostId)
  | readSettings (h : HostId)
  | lineReset (h : HostId)
  | readLine (h : HostId)
  | clearStats (h : HostId)
  | badCommand (h : HostId) (code : Byte)
  | noticeCodeRead (h : HostId)
  | noticeMaskWrite (h : HostId) (value : Byte)
  | portStatusRead (h : HostId)
  | portRegisterWrite (h : HostId) (location : BitVec 7) (value : Byte)
  | windowRead (h : HostId) (offset : Fin 64)
  | windowWrite (h : HostId) (offset : Fin 64) (value : Byte)
  | arbiterServe
  | powerOnReset
  | hostPortResetAssert (h : HostId)
  | hostPortResetRelease (h : HostId)
  | xtabResetPart (h : HostId)
  | bpoolResetPart (h : HostId)
  | plstResetPart (h : HostId)
  | stabResetPart (h : HostId)
  | cqResetPart (h : HostId)
  | nctlResetPart (h : HostId)
  | portResetPart (h : HostId)
  | tick
  | replyTimerExpiry
  | leaseExpiry (station : StationNo)
  | pollDue (entry : EntryNo)
  | guardRunOut
  | schedulerRun
  | openingBreakEnd
  | characterSent
  | echoCollision
  | frameSent
  | cutBreakEnd
  | breakDetected
  | breakEnd
  | characterTaken (value : Byte)
  | framingError
  | gapLimit
  | stuckDetected
  | lineRecovered
  | sentReport
  | collisionReport
  | cutCompleteReport
  | frameStartReport
  | frameCompleteReport
  | badFrameReport
  | stuckReport
  | recoveryReport
  | exchangeEndTaken
  | exchangeEndReport
  | stationFlush
  | instanceEnd
  | halfBitSample
  | markToSpaceEdge
  | spaceToMarkEdge
  | powerOnResetRelease
  deriving DecidableEq, Repr

end Sys2Proof
end

