-- ==== Sys2Proof/Config.lean ====
section
/-! DEFINITION. What the part fixes once and for all: the capacities and fixed limits of the manual. No value of the KL-4 is left to the implementation, so no constant here is a free value (log 31). -/

namespace Sys2Proof.Config

/-- What a byte of buffer memory that nothing has written reads as (R39). -/
def unwrittenByte : Byte := 0

/-- Bytes of one buffer (R39). -/
def bufferBytes : Nat := 64

/-- Depth of one completion queue (R144). -/
def queueDepth : Nat := 16

/-- Stations one host may hold (R115). -/
def holdLimit : Nat := 4

/-- Spacing of an opening or cut-off break, in bit times (R4). -/
def breakSpacingBits : Nat := 16

/-- The whole opening or cut-off break, in bit times (R4). -/
def breakBits : Nat := 18

/-- A spacing run of this many bit times is a break (R5). -/
def breakDetectBits : Nat := 11

/-- The stuck-line limit, in character times (R18). -/
def stuckCharacters : Nat := 4

/-- The gap limit, in character times (R17). -/
def gapCharacters : Nat := 2

/-- Largest payload of a frame (R6). -/
def maxPayload : Nat := 64

end Sys2Proof.Config
end

