-- ==== Sys2Proof/Machine/State.lean ====
section
/-! DEFINITION. The state of the KL-4, block by block as 00_scope 2.1 lists the blocks, and the state right after power-on reset. -/

namespace Sys2Proof.Machine

/-! ## Exchange Table (chapter 4) -/

/-- Classes, highest first. -/
inductive ExClass where
  | urgent | normal | bulk
  deriving DecidableEq, Repr

/-- States of an exchange record (R58). -/
inductive ExState where
  | free | queued | active | done | orphan
  deriving DecidableEq, Repr

/-- Origin of an exchange: a host's SUBMIT, or a poll entry. -/
inductive Origin where
  | host
  | poll (entry : EntryNo)
  deriving DecidableEq, Repr

/-- Attempt results (R58, R103). -/
inductive AttemptResult where
  | replyOk | replyNegative | noReply | badReply | collision | lineStuck | aborted
  deriving DecidableEq, Repr

/-- Outcomes of an exchange (R58, R105). -/
inductive ExOutcome where
  | answered | refused | noReply | badReply | lineError | sent | cancelled | aborted | stationDown
  deriving DecidableEq, Repr

/-- An exchange record: the fields of R58. -/
structure Exchange where
  state : ExState
  owner : HostId
  origin : Origin
  tag : Option Word16
  station : StationAddr
  function : Byte
  cls : ExClass
  promoted : Bool
  requestBuffer : Option BufNo
  requestLength : Nat
  replyBuffer : Option BufNo
  retryLimit : Nat
  replyTimeout : Nat
  attempts : Nat
  passCount : Nat
  submission : Word16
  cancelRequested : Bool
  transmitted : Bool
  lastResult : Option AttemptResult
  outcome : Option ExOutcome
  finish : Option Word16
  replyLength : Nat
  replyFunction : Option Byte
  payloadDropped : Bool
  deriving DecidableEq, Repr

/-- A FREE slot: the last column of the table of R58. -/
def freeExchange : Exchange where
  state := .free
  owner := 0
  origin := .host
  tag := none
  station := 0
  function := 0
  cls := .normal
  promoted := false
  requestBuffer := none
  requestLength := 0
  replyBuffer := none
  retryLimit := 0
  replyTimeout := 20
  attempts := 0
  passCount := 0
  submission := 0
  cancelRequested := false
  transmitted := false
  lastResult := none
  outcome := none
  finish := none
  replyLength := 0
  replyFunction := none
  payloadDropped := false

/-! ## Station Table (chapters 2 and 7) -/

/-- Station states (R21). -/
inductive StationState where
  | unknown | online | suspect | failed
  deriving DecidableEq, Repr

/-- A wait-list entry: a host and the lease it asked for (R115). -/
structure Waiter where
  host : HostId
  lease : Word16
  deriving DecidableEq, Repr

/-- The hold part of a station record (R115). `tickWaiting`, the model's own field, says that a tick has been handed to the Station Table and its claim at this lease, which is at its last millisecond, has not been taken (R119; log 8). -/
structure Hold where
  holder : HostId
  lease : Word16
  waiters : List Waiter
  tickWaiting : Bool
  deriving DecidableEq, Repr

/-- A station record (R21). -/
structure Station where
  state : StationState
  failures : Nat
  nextSeq : Bool
  attention : Bool
  subscribers : Table Bool 4
  unread : Table Bool 4
  hold : Option Hold
  deriving DecidableEq, Repr

/-- A station record after power-on (R21). -/
def freshStation : Station where
  state := .unknown
  failures := 0
  nextSeq := false
  attention := false
  subscribers := Vector.replicate 4 false
  unread := Vector.replicate 4 false
  hold := none

/-! ## Buffer Pool (chapter 3) -/

/-- Holder states of a buffer (R40). -/
inductive Holder where
  | free
  | host (h : HostId)
  | orphaned
  deriving DecidableEq, Repr

/-- What a buffer may be attached to (R41). -/
inductive Attacher where
  | slot (i : SlotNo)
  | entry (e : EntryNo)
  deriving DecidableEq, Repr

/-- An attachment with the roles in which the attacher uses the buffer; `asReply` is the snapshot role for a poll entry (R41). -/
structure Attachment where
  attacher : Attacher
  asRequest : Bool
  asReply : Bool
  deriving DecidableEq, Repr

/-- Buffer memory: its bytes other than 0x00, addresses strictly rising. -/
abbrev Memory := List Host.Cell

/-- The Line Engine's claim at the arbiter: the fetch of one request byte, or the copy of one accepted reply (R51). -/
inductive EngineClaim where
  | fetch (buffer : BufNo) (offset : Nat)
  | copy (buffer : BufNo) (length : Nat)
  deriving DecidableEq, Repr

/-! ## Line Engine (chapter 6) -/

/-- Engine states (R93). -/
inductive EngineState where
  | quiet | idle | sending | awaiting | receiving | stuck
  deriving DecidableEq, Repr

/-- The decided result of an attempt whose frame is being cut. -/
inductive Decided where
  | collision | aborted
  deriving DecidableEq, Repr

/-- The reply timer (R99). `tickWaiting`, the model's own field: a tick's claim waits at the timer, which has one tick left (log 8). -/
structure ReplyTimer where
  left : Nat
  running : Bool
  tickWaiting : Bool
  deriving DecidableEq, Repr

/-- The guard counter (R94): character times left, running or held, the clock periods counted in the present character time, and the clock periods of one character time, fixed when the count began. -/
structure Guard where
  left : Nat
  running : Bool
  clocks : Nat
  perChar : Nat
  deriving DecidableEq, Repr

/-- What an attempt keeps of its accepted reply for the exchange's end (R102). -/
structure AcceptedReply where
  length : Nat
  function : Byte
  attention : Bool
  check : Word16
  payloadDropped : Bool
  deriving DecidableEq, Repr

/-- The Line Engine's record (06 section 6.1). -/
structure Engine where
  state : EngineState
  current : Option SlotNo
  seqInUse : Bool
  retryDue : Bool
  decided : Option Decided
  timer : ReplyTimer
  guard : Guard
  frameInProgress : Bool
  copyOutstanding : Bool
  reply : Option AcceptedReply
  deriving DecidableEq, Repr

/-- The line statistics record (R112). -/
structure Stats where
  framesSent : Word16
  repliesAccepted : Word16
  badReplies : Word16
  staleFrames : Word16
  strayFrames : Word16
  noReplies : Word16
  collisions : Word16
  stuckEvents : Word16
  cutOffReplies : Word16
  deriving DecidableEq, Repr

/-- Every statistics counter 0 (R93, R114). -/
def zeroStats : Stats := ⟨0, 0, 0, 0, 0, 0, 0, 0, 0⟩

/-- The grant pointers of the Line Scheduler (R81). -/
structure Pointers where
  urgent : HostId
  normal : HostId
  bulk : HostId
  deriving DecidableEq, Repr

/-! ## Line Interface (chapter 1) -/

/-- Transmit side states. -/
inductive TxSide where
  | released | opening | characters | cutting
  deriving DecidableEq, Repr

/-- Receive side states. -/
inductive RxSide where
  | hunt | inBreak | assembling | echo | stuck
  deriving DecidableEq, Repr

/-- Reasons of a bad-frame report (R16). -/
inductive BadReason where
  | framing | length | check | gap | brk
  deriving DecidableEq, Repr

/-- What a frame-complete report carries (R15). -/
structure FrameInfo where
  station : StationAddr
  sequence : Bool
  attention : Bool
  fromStation : Bool
  function : Byte
  length : Nat
  check : Word16
  deriving DecidableEq, Repr

/-- The eight kinds of report the Line Interface hands the Line Engine. -/
inductive Report where
  | sent
  | collision
  | cutComplete
  | frameStart
  | frameComplete (f : FrameInfo)
  | badFrame (reason : BadReason)
  | stuck
  | recovery
  deriving DecidableEq, Repr

/-- A send order (R10). -/
structure SendOrder where
  station : StationAddr
  sequence : Bool
  function : Byte
  length : Nat
  deriving DecidableEq, Repr

/-- What the receiver has taken from the echo for the character being sent (R12). -/
inductive EchoChar where
  | good (value : Byte)
  | framing
  deriving DecidableEq, Repr

/-- The transmitter's working state for the frame being sent: the order; the index, value and running check of the character being sent; the next payload byte once it is in place (R11); the echo of this character, whether the opening break has come back, and what the sample of its marking part found, right or wrong (R12); and the clock periods of a bit and bits of a character fixed for what is being sent, those counted so far, and those left, at level `leadLevel`, before a cut-off break begins (R1, R4). -/
structure Sending where
  order : SendOrder
  index : Nat
  value : Byte
  check : Word16
  nextPayload : Option Byte
  echo : Option EchoChar
  echoBreak : Bool
  markChecked : Bool
  markFailed : Bool
  bit : Nat
  charBits : Nat
  elapsed : Nat
  lead : Nat
  leadLevel : Bool
  deriving DecidableEq, Repr

/-- The transmitter at rest. -/
def idleSending : Sending where
  order := ⟨0, false, 0, 0⟩
  index := 0
  value := 0
  check := 0
  nextPayload := none
  echo := none
  echoBreak := false
  markChecked := false
  markFailed := false
  bit := 0
  charBits := 0
  elapsed := 0
  lead := 0
  leadLevel := true

/-- The frame assembly buffer (R14, R20) with the receiver's running check (R8). -/
structure FrameBuffer where
  address : Byte
  function : Byte
  length : Byte
  payload : Table Byte 64
  checkHigh : Byte
  checkLow : Byte
  count : Nat
  check : Word16
  deriving DecidableEq, Repr

/-- A spacing run being measured, in the clock periods fixed at its beginning; `reached` once it has reached 11 bit times (R5, R18). -/
structure SpacingRun where
  bit : Nat
  charBits : Nat
  elapsed : Nat
  reached : Bool
  deriving DecidableEq, Repr

/-- A possible character (R3): timed from its start edge; `valid` once the half-bit sample has found its start bit; `fresh` if it began after the previous sent character's end (R12); the data bits sampled so far; and whether a stop bit sampled spacing. -/
structure RxChar where
  bit : Nat
  stops : Nat
  elapsed : Nat
  valid : Bool
  fresh : Bool
  value : Byte
  badStop : Bool
  deriving DecidableEq, Repr

/-- The gap measurement (R17); `passed` once the limit has passed with a start edge under test. -/
structure Gap where
  limit : Nat
  elapsed : Nat
  passed : Bool
  deriving DecidableEq, Repr

/-- A marking period timed in STUCK (R19). -/
structure MarkPeriod where
  limit : Nat
  elapsed : Nat
  deriving DecidableEq, Repr

/-- The Line Interface. `input` is the LRXD level, `true` for marking. `reports`, oldest first, have been given and not yet taken by the engine (log 5). -/
structure Lif where
  tx : TxSide
  sending : Sending
  rx : RxSide
  frame : FrameBuffer
  run : Option SpacingRun
  char : Option RxChar
  gap : Option Gap
  marking : Option MarkPeriod
  input : Bool
  reports : List Report
  deriving DecidableEq, Repr

/-! ## Poll List (chapter 8) -/

/-- States of a poll entry (R129). -/
inductive PollState where
  | unused | armed | stopping
  deriving DecidableEq, Repr

/-- A poll entry: the fields of R129. `inst` is its instance. `tickWaiting`, the model's own field: a tick's claim waits at its countdown (log 8). -/
structure PollEntry where
  state : PollState
  owner : HostId
  station : StationAddr
  function : Byte
  cls : ExClass
  requestBuffer : Option BufNo
  requestLength : Nat
  snapshotBuffer : Option BufNo
  period : Word16
  countdown : Word16
  inst : Option SlotNo
  changeDetect : Bool
  lastCheck : Option Word16
  lastLength : Option Nat
  lastOutcome : Option ExOutcome
  missed : Nat
  unreadChange : Bool
  tickWaiting : Bool
  deriving DecidableEq, Repr

/-- An UNUSED entry: the last column of the table of R129. -/
def unusedEntry : PollEntry where
  state := .unused
  owner := 0
  station := 0
  function := 0
  cls := .normal
  requestBuffer := none
  requestLength := 0
  snapshotBuffer := none
  period := 0
  countdown := 0
  inst := none
  changeDetect := false
  lastCheck := none
  lastLength := none
  lastOutcome := none
  missed := 0
  unreadChange := false
  tickWaiting := false

/-! ## Completion Queues and Notice Controllers (chapter 9) -/

/-- A completion record (R145). -/
structure Completion where
  tag : Word16
  slot : SlotNo
  station : StationAddr
  function : Byte
  outcome : ExOutcome
  attempts : Nat
  replyLength : Nat
  replyFunction : Option Byte
  payloadDropped : Bool
  promoted : Bool
  deriving DecidableEq, Repr

/-- The eight notice sources, by source code (09 section 9.4). -/
inductive NoticeSource where
  | lineFault | holdExpired | holdGranted | completion | stationChange | pollChange | poolLow | settings
  deriving DecidableEq, Repr

/-- One host's Notice Controller: bit `n` of each byte stands for source code `n` (R151). -/
structure NoticeCtl where
  pending : Byte
  mask : Byte
  deriving DecidableEq, Repr

/-! ## Settings Unit and Time Base (chapter 10) -/

/-- A settings record (R159). -/
structure Settings where
  rateCode : Nat
  stopBits : Nat
  guardLength : Nat
  defaultTimeout : Nat
  defaultRetries : Nat
  failureThreshold : Nat
  agingLimit : Nat
  poolLow : Nat
  exchangeQuota : Nat
  bufferQuota : Nat
  deriving DecidableEq, Repr

/-- The default settings (R159). -/
def defaultSettings : Settings := ⟨4, 1, 2, 20, 2, 3, 8, 8, 8, 24⟩

/-- The tick prescaler (R165): clock periods counted, and the tick of the cycle of five being counted (0 is tick 1). -/
structure Prescaler where
  count : Nat
  phase : Fin 5
  deriving DecidableEq, Repr

/-! ## Host Ports (chapter 11) -/

/-- Result codes (R171). -/
inductive ResultCode where
  | ok | pending | empty | deferred | tooLate | holdWaiting | notHeld | holdLimit
  | badParam | badBuffer | bufferBusy | noBuffer | quota | noSlot | noEntry
  | stationDown | notFound | notOwner | notNow | badCommand
  deriving DecidableEq, Repr

/-- A port's claim waiting at the arbiter (R51): one window access, or the clearing of one buffer by BUF_ALLOC, which carries what the command returns (R47). -/
inductive PortClaim where
  | read (offset : Fin 64)
  | write (offset : Fin 64) (value : Byte)
  | clear (buffer : BufNo) (owned : Nat) (freeCount : Nat)
  deriving DecidableEq, Repr

/-- The seven parts of a port reset's release, in the order of R176. -/
inductive ReleasePart where
  | xtab | bpool | plst | stab | cq | nctl | port
  deriving DecidableEq, Repr

/-- Whether a port serves accesses: it does; or its reset pin is held; or a release is being handed out, the next part being the one named (R175, R176). -/
inductive PortPhase where
  | serving
  | held
  | releasing (next : ReleasePart)
  deriving DecidableEq, Repr

/-- What a port showed before a claim of it went into service: an access whose pin is asserted during its service returns nothing (R54, R175). -/
structure Shown where
  data : Byte
  result : ResultCode
  params : Table Byte 24
  deriving DecidableEq, Repr

/-- Whose claim is in service at the arbiter (R51): the Line Engine's; a port's access, with what the port showed before it; or that of an access whose reset pin was asserted meanwhile, which no port waits for any more (R54). -/
inductive MemoryUser where
  | engine
  | port (h : HostId) (before : Shown)
  | abandoned
  deriving DecidableEq, Repr

/-- The claim in service at the arbiter, and the clock periods for which it still holds the memory (R51; log 14). -/
structure Service where
  user : MemoryUser
  left : Nat
  deriving DecidableEq, Repr

/-- A host port. `data` is what the port last drove on its data lines for a read (log 12); `waiting`, the model's own field, holds the accesses begun and not yet served, oldest first (R169, R176; log 36); `pin` says that HnRST is asserted; `edges` counts the pin's edges that wait for the release under way to end (R176; log 22). -/
structure Port where
  select : Byte
  windowRefused : Bool
  params : Table Byte 24
  result : ResultCode
  claim : Option PortClaim
  waiting : List Instr
  data : Byte
  pin : Bool
  phase : PortPhase
  edges : Nat
  deriving DecidableEq, Repr

/-- A port as its own part of a reset leaves it (R176, R177). -/
def freshPort : Port where
  select := 0xFF
  windowRefused := false
  params := Vector.replicate 24 0
  result := .ok
  claim := none
  waiting := []
  data := 0
  pin := false
  phase := .serving
  edges := 0

/-- The timers at which the claim of the coming tick has been taken ahead of the tick's other claims: the model's own record, cleared at the tick (R119, R132, R165; log 8). -/
structure TicksTaken where
  reply : Bool
  leases : Table Bool 31
  entries : Table Bool 16
  deriving DecidableEq, Repr

/-- At no timer. -/
def noneTaken : TicksTaken := ⟨false, Vector.replicate 31 false, Vector.replicate 16 false⟩

/-! ## What is handed from block to block -/

/-- The end the engine hands the Exchange Table (R69). -/
structure ExchangeEnd where
  slot : SlotNo
  outcome : ExOutcome
  result : AttemptResult
  replyLength : Nat
  replyFunction : Option Byte
  payloadDropped : Bool
  check : Option Word16
  deriving DecidableEq, Repr

/-- The exchange-end report the engine hands the Station Table (R22). -/
structure EndReport where
  station : StationNo
  transmitted : Bool
  outcome : ExOutcome
  attention : Bool
  deriving DecidableEq, Repr

/-- The instance end the Exchange Table hands the Poll List (R70, R77). -/
structure InstanceEnd where
  entry : EntryNo
  slot : SlotNo
  outcome : ExOutcome
  attempts : Nat
  replyLength : Nat
  replyFunction : Option Byte
  payloadDropped : Bool
  check : Option Word16
  orphan : Bool
  deriving DecidableEq, Repr

/-- What has been handed over and waits to be taken: the model's own record of the claims between two steps (log 5). -/
structure HandOvers where
  exchangeEnd : Option ExchangeEnd
  endReport : Option EndReport
  flush : Option StationNo
  instEnd : Option InstanceEnd
  runAsked : Bool
  deriving DecidableEq, Repr

/-- Nothing waits. -/
def noHandOvers : HandOvers := ⟨none, none, none, none, false⟩

/-! ## The whole part -/

/-- The state of the KL-4. INVENTORY.md lists every field with its rule and its reset value. -/
structure State where
  pending : List Instr
  porst : Bool
  ports : Table Port 4
  slots : Table Exchange 32
  submission : Word16
  finish : Word16
  stations : Table Station 31
  holders : Table Holder 96
  attached : Table (Option Attachment) 96
  freeList : List BufNo
  mem : Memory
  lastServed : HostId
  engineClaim : Option EngineClaim
  service : Option Service
  engine : Engine
  stats : Stats
  pointers : Pointers
  lif : Lif
  entries : Table PollEntry 16
  queues : Table (List Completion) 4
  notices : Table NoticeCtl 4
  active : Settings
  staged : Option Settings
  prescaler : Prescaler
  taken : TicksTaken
  hand : HandOvers
  deriving DecidableEq, Repr

/-- Why the machine stops with a fault: never. Every event of the KL-4 has an effect that the manual gives (log 31). Safe: no run of the part is cut short. -/
inductive Fault where
  deriving DecidableEq, Repr

/-- Why a command has no meaning. -/
inductive Refusal where
  /-- Raised by an arm of exec for a command that has no meaning yet; no arm raises it. Safe: it stops a run and adds none. -/
  | notModelled (mnemonic : String)
  deriving DecidableEq, Repr

/-- The Line Engine after power-on (R93). One character time of the default settings is 10 bits of 128 clock periods (R20). -/
def freshEngine : Engine where
  state := .quiet
  current := none
  seqInUse := false
  retryDue := false
  decided := none
  timer := ⟨0, false, false⟩
  guard := ⟨2, true, 0, 1280⟩
  frameInProgress := false
  copyOutstanding := false
  reply := none

/-- The frame assembly buffer after power-on (R20). -/
def freshFrame : FrameBuffer := ⟨0, 0, 0, Vector.replicate 64 0, 0, 0, 0, 0xFFFF⟩

/-- The Line Interface after power-on (R20), its input marking. -/
def freshLif : Lif where
  tx := .released
  sending := idleSending
  rx := .hunt
  frame := freshFrame
  run := none
  char := none
  gap := none
  marking := none
  input := true
  reports := []

/-- The part right after power-on reset, the reset input released and the line marking (R177; log 1). -/
def State.reset : State where
  pending := []
  porst := false
  ports := Vector.replicate 4 freshPort
  slots := Vector.replicate 32 freeExchange
  submission := 0
  finish := 0
  stations := Vector.replicate 31 freshStation
  holders := Vector.replicate 96 .free
  attached := Vector.replicate 96 none
  freeList := List.finRange 96
  mem := []
  lastServed := 3
  engineClaim := none
  service := none
  engine := freshEngine
  stats := zeroStats
  pointers := ⟨0, 0, 0⟩
  lif := freshLif
  entries := Vector.replicate 16 unusedEntry
  queues := Vector.replicate 4 []
  notices := Vector.replicate 4 ⟨0, 0xFF⟩
  active := defaultSettings
  staged := none
  prescaler := ⟨0, 0⟩
  taken := noneTaken
  hand := noHandOvers

end Sys2Proof.Machine
end

