-- ==== Sys2Proof/Machine/Ops.lean ====
section
/-! DEFINITION. The named operations over tables, buffer memory, ports, notices and lending that the meanings of the commands share. -/

namespace Sys2Proof.Machine

/-! ## Tables -/

/-- Entry `i` of a table. -/
def tget {α : Type} {n : Nat} (t : Table α n) (i : Fin n) : α := t[i]

/-- The table with entry `i` replaced. -/
def tput {α : Type} {n : Nat} (t : Table α n) (i : Fin n) (x : α) : Table α n := t.set i x

/-- The table with every entry rewritten from its number and its value. -/
def tmap {α : Type} {n : Nat} (f : Fin n → α → α) (t : Table α n) : Table α n :=
  ⟨⟨List.ofFn fun i => f i (tget t i)⟩, by simp⟩

/-- The lowest entry that satisfies a test. -/
def tfind {α : Type} {n : Nat} (p : Fin n → α → Bool) (t : Table α n) : Option (Fin n) :=
  (List.finRange n).find? fun i => p i (tget t i)

/-- How many entries satisfy a test. -/
def tcount {α : Type} {n : Nat} (p : Fin n → α → Bool) (t : Table α n) : Nat :=
  (List.finRange n).countP fun i => p i (tget t i)

/-- The numbers of the entries that satisfy a test, ascending. -/
def tfilter {α : Type} {n : Nat} (p : Fin n → α → Bool) (t : Table α n) : List (Fin n) :=
  (List.finRange n).filter fun i => p i (tget t i)

/-- A table with a run of entries replaced from offset `off` on. -/
def overlay {n : Nat} (t : Table Byte n) (off : Nat) (bytes : List Byte) : Table Byte n :=
  tmap (fun i b => if off ≤ i.val then (bytes[i.val - off]?).getD b else b) t

/-! ## Parts of the state -/

def State.port (s : State) (h : HostId) : Port := tget s.ports h
def State.slot (s : State) (i : SlotNo) : Exchange := tget s.slots i
def State.station (s : State) (n : StationNo) : Station := tget s.stations n
def State.entry (s : State) (e : EntryNo) : PollEntry := tget s.entries e
def State.queue (s : State) (h : HostId) : List Completion := tget s.queues h
def State.notice (s : State) (h : HostId) : NoticeCtl := tget s.notices h
def State.holder (s : State) (b : BufNo) : Holder := tget s.holders b
def State.attachment (s : State) (b : BufNo) : Option Attachment := tget s.attached b

def State.setPort (s : State) (h : HostId) (p : Port) : State := { s with ports := tput s.ports h p }
def State.setSlot (s : State) (i : SlotNo) (x : Exchange) : State := { s with slots := tput s.slots i x }
def State.setStation (s : State) (n : StationNo) (x : Station) : State := { s with stations := tput s.stations n x }
def State.setEntry (s : State) (e : EntryNo) (x : PollEntry) : State := { s with entries := tput s.entries e x }
def State.setQueue (s : State) (h : HostId) (q : List Completion) : State := { s with queues := tput s.queues h q }
def State.setNotice (s : State) (h : HostId) (c : NoticeCtl) : State := { s with notices := tput s.notices h c }
def State.setEngine (s : State) (e : Engine) : State := { s with engine := e }
def State.setStats (s : State) (x : Stats) : State := { s with stats := x }
def State.setLif (s : State) (l : Lif) : State := { s with lif := l }
def State.setHand (s : State) (x : HandOvers) : State := { s with hand := x }
def State.setTaken (s : State) (x : TicksTaken) : State := { s with taken := x }

/-! ## When a command is taken -/

/-- The claim in service at the arbiter is that of an access of host `h` (R51). -/
def portInService (h : HostId) (s : State) : Bool :=
  match s.service with
  | some ⟨.port k _, _⟩ => decide (k = h)
  | _ => false

/-- Host `h`'s port serves an access now: PORST is released, the port's reset pin is not held nor its release under way, and no earlier access of `h` is still to end (R169, R175, R176, R177). -/
def portServes (h : HostId) (s : State) : Bool :=
  !s.porst && decide ((s.port h).phase = .serving) && (s.port h).claim.isNone && !portInService h s
    && (s.port h).waiting.isEmpty

/-- An access that host `h` begins now is abandoned unserved: its reset pin or the power-on reset input is held (R169, R175, R177). -/
def portRefuses (h : HostId) (s : State) : Bool :=
  s.porst || (s.port h).pin || decide ((s.port h).phase = .held)

/-- The access `c` of host `h` waits at its port, READY withdrawn, behind those that wait already. -/
def waitAtPort (c : Instr) (h : HostId) (s : State) : State :=
  s.setPort h { s.port h with waiting := (s.port h).waiting ++ [c] }

/-- The access `c` of host `h`: made when the port serves it; begun while a reset is held, it is not served and changes nothing (R175, R177); begun while an earlier access of `h` or the release of the port is still to end, it waits for that (R169, R176; log 36). -/
def served (c : Instr) (h : HostId) (s : State) (act : State → State) : Host.Outcome State Fault Refusal :=
  .next (if portServes h s then act s else if portRefuses h s then s else waitAtPort c h s)

/-- An event inside the part: none happens while the power-on reset input is held (R177). -/
def internal (s : State) (act : State → State) : Host.Outcome State Fault Refusal :=
  .next (if s.porst then s else act s)

/-! ## Results and the parameter area -/

/-- The port writes a result code (R170). -/
def answer (h : HostId) (r : ResultCode) (s : State) : State :=
  s.setPort h { s.port h with result := r }

/-- The port writes a result code, and the bytes the block returns from offset `off` of the parameter area on (R170, R172). -/
def answerWith (h : HostId) (r : ResultCode) (off : Nat) (bytes : List Byte) (s : State) : State :=
  s.setPort h { s.port h with result := r, params := overlay (s.port h).params off bytes }

/-- The port drives its data lines with the byte a read returns (R169). -/
def drive (h : HostId) (b : Byte) (s : State) : State :=
  s.setPort h { s.port h with data := b }

/-! ## Notices (R151, R152) -/

/-- The source code, which is also the priority and the bit number (09 section 9.4). -/
def noticeCode : NoticeSource → Nat
  | .lineFault => 0
  | .holdExpired => 1
  | .holdGranted => 2
  | .completion => 3
  | .stationChange => 4
  | .pollChange => 5
  | .poolLow => 6
  | .settings => 7

/-- The bit of a source in the pending and mask bytes (R151). -/
def noticeBit (c : Nat) : Byte := (1 : Byte) <<< c

/-- A controller with a source's latch set; a latch already pending stays pending (R152). -/
def NoticeCtl.latched (c : NoticeCtl) (src : NoticeSource) : NoticeCtl :=
  { c with pending := c.pending ||| noticeBit (noticeCode src) }

/-- A notice handed to host `h` (R152). -/
def latch (h : HostId) (src : NoticeSource) (s : State) : State :=
  s.setNotice h ((s.notice h).latched src)

/-- A notice handed to all four hosts. -/
def latchAll (src : NoticeSource) (s : State) : State :=
  { s with notices := tmap (fun _ c => c.latched src) s.notices }

/-! ## Hand-overs between blocks -/

/-- The Line Scheduler is asked for a run (R82). -/
def askRun (s : State) : State := s.setHand { s.hand with runAsked := true }

/-- The Line Interface gives the engine a report, after those already given. -/
def Lif.give (l : Lif) (r : Report) : Lif := { l with reports := l.reports ++ [r] }

/-! ## The coming tick, taken ahead at one timer (R119, R132, R165; log 8) -/

/-- The coming tick's claim at the reply timer has been taken. -/
def noteReplyTaken (s : State) : State := s.setTaken { s.taken with reply := true }

/-- The coming tick's claim at station `n`'s lease has been taken. -/
def noteLeaseTaken (n : StationNo) (s : State) : State := s.setTaken { s.taken with leases := tput s.taken.leases n true }

/-- The coming tick's claim at entry `e`'s countdown has been taken. -/
def noteEntryTaken (e : EntryNo) (s : State) : State := s.setTaken { s.taken with entries := tput s.taken.entries e true }

/-! ## Buffer memory (R39) -/

/-- The address of a byte of a buffer. -/
def bufAddr (b : BufNo) (offset : Nat) : Nat := Config.bufferBytes * b.val + offset

/-- The byte at an address; an unlisted address reads as R39 gives. -/
def memRead : Memory → Nat → Byte
  | [], _ => Config.unwrittenByte
  | c :: m, a => if c.1 = a then c.2 else memRead m a

/-- A cell in front of a list, left out when it holds what an unlisted address reads as. -/
def memCons (a : Nat) (v : Byte) (m : Memory) : Memory :=
  if v = Config.unwrittenByte then m else (a, v) :: m

/-- The memory with one byte written, in canonical form. -/
def memWrite : Memory → Nat → Byte → Memory
  | [], a, v => memCons a v []
  | c :: m, a, v =>
    if a < c.1 then memCons a v (c :: m)
    else if a = c.1 then memCons a v m
    else c :: memWrite m a v

/-- The memory with consecutive bytes written from an address on. -/
def memWriteBytes : Memory → Nat → List Byte → Memory
  | m, _, [] => m
  | m, a, v :: vs => memWriteBytes (memWrite m a v) (a + 1) vs

/-- The canonical form of the buffer memory: addresses strictly rising and inside the 96 buffers, no byte that an unlisted address reads as. -/
abbrev Memory.wf (m : Memory) : Prop :=
  m.Pairwise (fun x y => x.1 < y.1) ∧ ∀ c ∈ m, c.2 ≠ Config.unwrittenByte ∧ c.1 < 96 * Config.bufferBytes

/-- The byte at an offset of a buffer. -/
def State.bufferByte (s : State) (b : BufNo) (offset : Nat) : Byte := memRead s.mem (bufAddr b offset)

/-! ## Buffers: counts, lending, unlending (R40 to R46) -/

/-- Host `h`'s owned count (R46). -/
def ownedCount (h : HostId) (s : State) : Nat := tcount (fun _ x => decide (x = Holder.host h)) s.holders

/-- The free count (R40). -/
def freeCount (s : State) : Nat := s.freeList.length

/-- Whether an attachment names an attacher. -/
def attachedTo (a : Attacher) (t : Option Attachment) : Bool :=
  match t with
  | none => false
  | some x => decide (x.attacher = a)

/-- The pool attaches the buffers named in the two roles to an attacher; one buffer in both roles is attached once, with both (R41, R43). -/
def lend (a : Attacher) (request reply : Option BufNo) (s : State) : State :=
  { s with attached := tmap (fun b t =>
      if request = some b ∨ reply = some b then
        some ⟨a, decide (request = some b), decide (reply = some b)⟩
      else t) s.attached }

/-- A buffer that an attacher's unlend returns to the free list: attached to it and ORPHANED (R44, R55). -/
def returnedBy (a : Attacher) (s : State) (b : BufNo) : Bool :=
  attachedTo a (s.attachment b) && decide (s.holder b = .orphaned)

/-- The attacher hands the pool the unlend of its buffers: attachments go, and ORPHANED buffers join the tail of the free list in ascending order (R44, R55). -/
def unlend (a : Attacher) (s : State) : State :=
  { s with
    attached := tmap (fun _ t => if attachedTo a t then none else t) s.attached
    holders := tmap (fun b x => if returnedBy a s b then Holder.free else x) s.holders
    freeList := s.freeList ++ (List.finRange 96).filter (returnedBy a s) }

/-! ## Durations (R1, R167) -/

/-- Clock periods of one bit for a rate code (the table of R1). -/
def rateClocks : Nat → Nat
  | 0 => 1536
  | 1 => 768
  | 2 => 384
  | 3 => 256
  | 4 => 128
  | 5 => 64
  | 6 => 32
  | _ => 16

/-- Bit times of one character: 10 with one stop bit, 11 with two (R1). -/
def characterBits (stopBits : Nat) : Nat := 9 + stopBits

/-- Clock periods of one bit at the active line rate. -/
def bitClocks (s : State) : Nat := rateClocks s.active.rateCode

/-- Bit times of one character at the active stop bits. -/
def charBits (s : State) : Nat := characterBits s.active.stopBits

/-- Clock periods of one character time at the active settings. -/
def charClocks (s : State) : Nat := charBits s * bitClocks s

/-! ## The check of the frame (R8) -/

/-- One step of the check: the next data bit, most significant first, is fed in. -/
def checkShift : Nat → Word16 → Word16
  | 0, c => c
  | n + 1, c => checkShift n (if c.msb then (c <<< 1) ^^^ 0x1021 else c <<< 1)

/-- The check after one more byte. -/
def checkByte (c : Word16) (b : Byte) : Word16 := checkShift 8 (c ^^^ (b.zeroExtend 16 <<< 8))

/-- The check over a run of bytes from a starting value. -/
def checkBytes (c : Word16) (bytes : List Byte) : Word16 := bytes.foldl checkByte c

/-- The initial value of the check. -/
def checkInit : Word16 := 0xFFFF

/-! ## Saturating counters -/

/-- A 16-bit statistics counter increased by one and held at 65535 (R112). -/
def bump (c : Word16) : Word16 := if c = 0xFFFF then c else c + 1

end Sys2Proof.Machine
end

