-- ==== Sys2Proof/Machine/Operands.lean ====
section
/-! DEFINITION. The parameter area: how each command's arguments are read (R62, R130, R160, R172), the codes of R171 and R173, and the record copies of R173. -/

namespace Sys2Proof.Machine

/-! ## Reading the parameter area -/

/-- Argument byte at an offset of host `h`'s parameter area. -/
def arg (h : HostId) (k : Fin 24) (s : State) : Byte := tget (s.port h).params k

/-- A two-byte quantity, high byte first (R168). -/
def word (hi lo : Byte) : Word16 := hi ++ lo

/-- The high byte of a 16-bit quantity. -/
def hiByte (w : Word16) : Byte := w.extractLsb' 8 8

/-- The low byte of a 16-bit quantity. -/
def loByte (w : Word16) : Byte := w.extractLsb' 0 8

/-- Two-byte argument at offsets `k` and `k + 1`. -/
def arg16 (h : HostId) (k l : Fin 24) (s : State) : Word16 := word (arg h k s) (arg h l s)

/-- The station a station command names: 1–31 (R21). -/
def stationOf (b : Byte) : Option StationNo :=
  if hb : 1 ≤ b.toNat ∧ b.toNat ≤ 31 then some ⟨b.toNat - 1, by omega⟩ else none

/-- An exchange slot 0–31. -/
def slotOf (b : Byte) : Option SlotNo :=
  if hb : b.toNat < 32 then some ⟨b.toNat, hb⟩ else none

/-- A poll entry 0–15. -/
def entryOf (b : Byte) : Option EntryNo :=
  if hb : b.toNat < 16 then some ⟨b.toNat, hb⟩ else none

/-- A buffer 0–95. -/
def bufferOf (b : Byte) : Option BufNo :=
  if hb : b.toNat < 96 then some ⟨b.toNat, hb⟩ else none

/-- A station address 0–31, 0 being the broadcast address. -/
def addressOf (b : Byte) : Option StationAddr :=
  if hb : b.toNat < 32 then some ⟨b.toNat, hb⟩ else none

/-- The class of a class code (R173). -/
def classOf (b : Byte) : Option ExClass :=
  if b = 0 then some .urgent else if b = 1 then some .normal else if b = 2 then some .bulk else none

/-- A buffer field of SUBMIT or POLL_START: `some none` for "none" (0xFF), `none` for a number that names no buffer (R42). -/
def bufferField (b : Byte) : Option (Option BufNo) :=
  if b = 0xFF then some none else (bufferOf b).map some

/-- The settings record at offsets 0 to 9 of host `h`'s parameter area (R172). -/
def settingsArg (h : HostId) (s : State) : Settings where
  rateCode := (arg h 0 s).toNat
  stopBits := (arg h 1 s).toNat
  guardLength := (arg h 2 s).toNat
  defaultTimeout := (arg h 3 s).toNat
  defaultRetries := (arg h 4 s).toNat
  failureThreshold := (arg h 5 s).toNat
  agingLimit := (arg h 6 s).toNat
  poolLow := (arg h 7 s).toNat
  exchangeQuota := (arg h 8 s).toNat
  bufferQuota := (arg h 9 s).toNat

/-- Every field of a settings record is in the range of R159. -/
def settingsInRange (x : Settings) : Bool :=
  decide (x.rateCode ≤ 7) && decide (1 ≤ x.stopBits ∧ x.stopBits ≤ 2)
  && decide (1 ≤ x.guardLength ∧ x.guardLength ≤ 8)
  && decide (1 ≤ x.defaultTimeout ∧ x.defaultTimeout ≤ 255) && decide (x.defaultRetries ≤ 7)
  && decide (1 ≤ x.failureThreshold ∧ x.failureThreshold ≤ 15) && decide (x.agingLimit ≤ 15)
  && decide (x.poolLow ≤ 95) && decide (1 ≤ x.exchangeQuota ∧ x.exchangeQuota ≤ 32)
  && decide (x.bufferQuota ≤ 96)

/-! ## Codes (R171, R172, R173) -/

/-- The byte of a result code. -/
def resultByte : ResultCode → Byte
  | .ok => 0x00
  | .pending => 0x01
  | .empty => 0x02
  | .deferred => 0x03
  | .tooLate => 0x04
  | .holdWaiting => 0x05
  | .notHeld => 0x06
  | .holdLimit => 0x07
  | .badParam => 0x10
  | .badBuffer => 0x11
  | .bufferBusy => 0x12
  | .noBuffer => 0x13
  | .quota => 0x14
  | .noSlot => 0x15
  | .noEntry => 0x16
  | .stationDown => 0x17
  | .notFound => 0x18
  | .notOwner => 0x19
  | .notNow => 0x1A
  | .badCommand => 0x1F

/-- The 21 commands of the table of R172. -/
inductive HostCommand where
  | bufAlloc | bufFree
  | submit | cancel | readExchange
  | readStation | subscribe | unsubscribe | revive | hold | release
  | pollStart | pollRetime | pollStop | readPoll
  | popCompletion
  | setSettings | readSettings
  | lineReset | readLine | clearStats
  deriving DecidableEq, Repr

/-- The command a code byte issues; `none` for a code the port does not know (R170, R172). -/
def commandOfCode (code : Byte) : Option HostCommand :=
  match code.toNat with
  | 0x10 => some .bufAlloc
  | 0x11 => some .bufFree
  | 0x20 => some .submit
  | 0x21 => some .cancel
  | 0x22 => some .readExchange
  | 0x30 => some .readStation
  | 0x31 => some .subscribe
  | 0x32 => some .unsubscribe
  | 0x33 => some .revive
  | 0x38 => some .hold
  | 0x39 => some .release
  | 0x40 => some .pollStart
  | 0x41 => some .pollRetime
  | 0x42 => some .pollStop
  | 0x43 => some .readPoll
  | 0x50 => some .popCompletion
  | 0x60 => some .setSettings
  | 0x61 => some .readSettings
  | 0x70 => some .lineReset
  | 0x71 => some .readLine
  | 0x72 => some .clearStats
  | _ => none

/-- The port knows a command code (R170, R172). -/
def knownCommand (code : Byte) : Bool := (commandOfCode code).isSome

def classByte : ExClass → Byte
  | .urgent => 0
  | .normal => 1
  | .bulk => 2

def exStateByte : ExState → Byte
  | .free => 0
  | .queued => 1
  | .active => 2
  | .done => 3
  | .orphan => 4

def attemptResultByte : AttemptResult → Byte
  | .replyOk => 0
  | .replyNegative => 1
  | .noReply => 2
  | .badReply => 3
  | .collision => 4
  | .lineStuck => 5
  | .aborted => 6

def outcomeByte : ExOutcome → Byte
  | .answered => 0
  | .refused => 1
  | .noReply => 2
  | .badReply => 3
  | .lineError => 4
  | .sent => 5
  | .cancelled => 6
  | .aborted => 7
  | .stationDown => 8

def stationStateByte : StationState → Byte
  | .unknown => 0
  | .online => 1
  | .suspect => 2
  | .failed => 3

def pollStateByte : PollState → Byte
  | .unused => 0
  | .armed => 1
  | .stopping => 2

def engineStateByte : EngineState → Byte
  | .quiet => 0
  | .idle => 1
  | .sending => 2
  | .awaiting => 3
  | .receiving => 4
  | .stuck => 5

/-- A flag as a byte. -/
def flagByte (b : Bool) : Byte := if b then 1 else 0

/-- A small number as a byte. -/
def natByte (n : Nat) : Byte := BitVec.ofNat 8 n

/-- A number that may be absent; absent is 0xFF (R168, R173). -/
def optByte {α : Type} (f : α → Byte) (x : Option α) : Byte := (x.map f).getD 0xFF

/-- Flags as the bits of a byte, the first flag bit 0. -/
def bitsByte : List Bool → Byte
  | [] => 0
  | b :: bs => (bitsByte bs <<< 1) ||| flagByte b

/-! ## Record copies (R173) -/

/-- Offset 2 of the exchange copy: the owner in bits 1–0 and the flags above it. -/
def exchangeFlags (x : Exchange) : Byte :=
  (bitsByte [x.promoted, x.cancelRequested, x.transmitted, x.payloadDropped, x.finish.isSome, x.replyFunction.isSome] <<< 2)
    ||| natByte x.owner.val

/-- The exchange copy, offsets 0–23. -/
def exchangeCopy (i : SlotNo) (x : Exchange) : List Byte :=
  [natByte i.val, exStateByte x.state, exchangeFlags x,
   (match x.origin with | .host => 0xFF | .poll e => natByte e.val),
   hiByte (x.tag.getD 0), loByte (x.tag.getD 0), natByte x.station.val, x.function, classByte x.cls,
   optByte (fun b : BufNo => natByte b.val) x.requestBuffer, natByte x.requestLength,
   optByte (fun b : BufNo => natByte b.val) x.replyBuffer, natByte x.retryLimit, natByte x.replyTimeout,
   natByte x.attempts, natByte x.passCount, hiByte x.submission, loByte x.submission,
   optByte attemptResultByte x.lastResult, optByte outcomeByte x.outcome,
   hiByte (x.finish.getD 0), loByte (x.finish.getD 0), natByte x.replyLength, x.replyFunction.getD 0]

/-- The host at a place of a wait list, 0xFF if none. -/
def waiterByte (ws : List Waiter) (k : Nat) : Byte := optByte (fun w : Waiter => natByte w.host.val) ws[k]?

/-- The station copy as host `h` reads it, offsets 0–13 (R33, R128). -/
def stationCopy (h : HostId) (n : StationNo) (x : Station) : List Byte :=
  [natByte n.address.val, stationStateByte x.state, natByte x.failures, flagByte x.nextSeq, flagByte x.attention,
   bitsByte x.subscribers.toList, flagByte (tget x.unread h)]
  ++ (match x.hold with
      | none => [0xFF, 0, 0, 0, 0xFF, 0xFF, 0xFF]
      | some k => [natByte k.holder.val, hiByte k.lease, loByte k.lease, natByte k.waiters.length,
          waiterByte k.waiters 0, waiterByte k.waiters 1, waiterByte k.waiters 2])

/-- The entry copy, offsets 0–18. -/
def entryCopy (e : EntryNo) (x : PollEntry) : List Byte :=
  [natByte e.val, pollStateByte x.state, natByte x.station.val, x.function, classByte x.cls,
   optByte (fun b : BufNo => natByte b.val) x.requestBuffer, natByte x.requestLength,
   optByte (fun b : BufNo => natByte b.val) x.snapshotBuffer, hiByte x.period, loByte x.period,
   hiByte x.countdown, loByte x.countdown, optByte (fun i : SlotNo => natByte i.val) x.inst,
   bitsByte [x.changeDetect, x.unreadChange, x.lastCheck.isSome],
   hiByte (x.lastCheck.getD 0), loByte (x.lastCheck.getD 0), optByte natByte x.lastLength,
   optByte outcomeByte x.lastOutcome, natByte x.missed]

/-- The completion copy, offsets 0–9. -/
def completionCopy (c : Completion) : List Byte :=
  [hiByte c.tag, loByte c.tag, natByte c.slot.val, natByte c.station.val, c.function, outcomeByte c.outcome,
   natByte c.attempts, natByte c.replyLength, c.replyFunction.getD 0,
   bitsByte [c.payloadDropped, c.promoted, c.replyFunction.isSome]]

/-- The nine counters of the line copy, offsets 6–23, in the order of R173. -/
def statsBytes (x : Stats) : List Byte :=
  [x.framesSent, x.repliesAccepted, x.badReplies, x.staleFrames, x.strayFrames, x.noReplies,
   x.collisions, x.stuckEvents, x.cutOffReplies].flatMap fun c => [hiByte c, loByte c]

/-- The line copy, offsets 0–23 (R113). -/
def lineCopy (s : State) : List Byte :=
  [engineStateByte s.engine.state, optByte (fun i : SlotNo => natByte i.val) s.engine.current,
   flagByte s.engine.retryDue, natByte s.pointers.urgent.val, natByte s.pointers.normal.val,
   natByte s.pointers.bulk.val] ++ statsBytes s.stats

/-- The settings record as READ_SETTINGS returns it, offsets 0–9, and the pending-present flag at offset 10 (R164, R172). -/
def settingsCopy (s : State) : List Byte :=
  [natByte s.active.rateCode, natByte s.active.stopBits, natByte s.active.guardLength,
   natByte s.active.defaultTimeout, natByte s.active.defaultRetries, natByte s.active.failureThreshold,
   natByte s.active.agingLimit, natByte s.active.poolLow, natByte s.active.exchangeQuota,
   natByte s.active.bufferQuota, flagByte s.staged.isSome]

/-! ## The address byte (R7, R15) -/

/-- The address byte of a frame the part sends: direction 0 and attention 0 (R7). -/
def addressByte (station : StationAddr) (sequence : Bool) : Byte :=
  natByte station.val ||| (flagByte sequence <<< 5)

/-- What a complete frame reports, decoded from the frame assembly buffer (R15). -/
def frameInfo (f : FrameBuffer) : FrameInfo where
  station := ⟨(f.address &&& 0x1F).toNat % 32, Nat.mod_lt _ (by decide)⟩
  sequence := f.address.getLsbD 5
  attention := f.address.getLsbD 6
  fromStation := f.address.getLsbD 7
  function := f.function
  length := f.length.toNat
  check := word f.checkHigh f.checkLow

end Sys2Proof.Machine
end

