-- ==== Sys2Proof/Machine/Flags.lean ====
section
/-! DEFINITION. What a host or the line sees as flags and outputs: the active notice, the port status byte, the reads of port locations that change nothing, and the output pins. -/

namespace Sys2Proof.Machine

/-- The sources active for a host: pending and not masked (R151). -/
def activeBits (c : NoticeCtl) : Byte := c.pending &&& ~~~c.mask

/-- The highest-priority active source code, which is the lowest (R154). -/
def highestActive (c : NoticeCtl) : Option Nat := (List.range 8).find? fun n => (activeBits c).getLsbD n

/-- Host `h`'s NOTICE output: at least one source is active (R156). -/
def noticeOutput (h : HostId) (s : State) : Bool := decide (activeBits (s.notice h) ≠ 0)

/-- A DONE HOST-origin exchange of host `h`: a member of its backlog (R71). -/
def inBacklog (h : HostId) (x : Exchange) : Bool :=
  decide (x.state = .done) && decide (x.owner = h) && decide (x.origin = .host)

/-- Host `h` has exchanges in the backlog. -/
def backlogPresent (h : HostId) (s : State) : Bool := (tfind (fun _ x => inBacklog h x) s.slots).isSome

/-- The port status byte (R174). -/
def statusByte (h : HostId) (s : State) : Byte :=
  bitsByte [(s.port h).windowRefused, noticeOutput h s, backlogPresent h s]

/-- The byte a read of a port location outside the window, the notice code and the port status returns; such a read changes nothing (R148, R153, R155, R168). `none` for the locations whose reads are commands of their own. -/
def readLocation (h : HostId) (location : BitVec 7) (s : State) : Option Byte :=
  let l := location.toNat
  if l < 0x40 then none
  else if l = 0x40 then some (s.port h).select
  else if l = 0x41 then some 0
  else if l = 0x42 then some (resultByte (s.port h).result)
  else if l = 0x43 then none
  else if l = 0x44 then some (s.notice h).mask
  else if l = 0x45 then some (s.notice h).pending
  else if l = 0x46 then none
  else if l = 0x47 then some (natByte (s.queue h).length)
  else if hp : l - 0x48 < 24 then some (tget (s.port h).params ⟨l - 0x48, hp⟩)
  else some 0

/-- Host `h`'s READY output is not withdrawn: no access waits and the port serves (R169, R175). -/
def portReady (h : HostId) (s : State) : Bool := portServes h s

/-- The driver-enable output LDE (R4, R20). -/
def driverEnable (s : State) : Bool := decide (s.lif.tx ≠ .released)

/-- The level of a character being sent after a number of bit times: start bit, data bits least significant first, stop bits (R2). -/
def characterLevel (value : Byte) (bitNo : Nat) : Bool :=
  if bitNo = 0 then false else if bitNo ≤ 8 then value.getLsbD (bitNo - 1) else true

/-- The transmitter data output LTXD, `true` for marking (R2, R4, R13). -/
def txData (s : State) : Bool :=
  let d := s.lif.sending
  match s.lif.tx with
  | .released => true
  | .opening => !decide (d.elapsed < Config.breakSpacingBits * d.bit)
  | .characters => characterLevel d.value (d.elapsed / d.bit)
  | .cutting => if 0 < d.lead then d.leadLevel else !decide (d.elapsed < Config.breakSpacingBits * d.bit)

end Sys2Proof.Machine
end

