-- ==== Sys2Proof/Machine/Pool.lean ====
section
/-! DEFINITION. The Buffer Pool's commands and checks (chapter 3): BUF_ALLOC, BUF_FREE, the lendability answer, the window claims. The arbiter's service stands in Machine/Arbiter.lean. -/

namespace Sys2Proof.Machine

/-- A buffer field names no buffer, or a buffer in holder state HOST(h) (R42, first answer). -/
def fieldHeld (h : HostId) (f : Option (Option BufNo)) (s : State) : Bool :=
  match f with
  | none => false
  | some none => true
  | some (some b) => decide (s.holder b = .host h)

/-- A buffer field names no buffer, or one that is not attached (R42, second answer). -/
def fieldUnlent (f : Option (Option BufNo)) (s : State) : Bool :=
  match f with
  | some (some b) => (s.attachment b).isNone
  | _ => true

/-- The allocation itself: the head of the free list goes to host `h`, and the port's clearing claim waits at the arbiter with what the command returns (R47). POOL_LOW is handed to all hosts when the free count falls below the threshold (R49). -/
def allocate (h : HostId) (b : BufNo) (rest : List BufNo) (s : State) : State :=
  let s1 := { s with freeList := rest, holders := tput s.holders b (.host h), attached := tput s.attached b none }
  let s2 := s1.setPort h { s1.port h with claim := some (.clear b (ownedCount h s1) rest.length) }
  if s.active.poolLow ≤ freeCount s ∧ rest.length < s.active.poolLow then latchAll .poolLow s2 else s2

/-- BUF_ALLOC (R47): the quota first, then the free list. -/
def bufAlloc (h : HostId) (s : State) : State :=
  if s.active.bufferQuota ≤ ownedCount h s then answer h .quota s
  else match s.freeList with
    | [] => answer h .noBuffer s
    | b :: rest => allocate h b rest s

def execBufAlloc (h : HostId) (s : State) : Host.Outcome State Fault Refusal := served (.bufAlloc h) h s (bufAlloc h)

/-- BUF_FREE (R48). -/
def bufFree (h : HostId) (s : State) : State :=
  match bufferOf (arg h 0 s) with
  | none => answer h .badBuffer s
  | some b =>
    if s.holder b ≠ .host h then answer h .badBuffer s
    else if (s.attachment b).isSome then answer h .bufferBusy s
    else answer h .ok { s with holders := tput s.holders b .free, freeList := s.freeList ++ [b] }

def execBufFree (h : HostId) (s : State) : Host.Outcome State Fault Refusal := served (.bufFree h) h s (bufFree h)

/-- A window access becomes a one-byte claim of the port at the arbiter (R50, R168). -/
def placeClaim (h : HostId) (c : PortClaim) (s : State) : State := s.setPort h { s.port h with claim := some c }

def execWindowRead (h : HostId) (offset : Fin 64) (s : State) : Host.Outcome State Fault Refusal :=
  served (.windowRead h offset) h s (placeClaim h (.read offset))

def execWindowWrite (h : HostId) (offset : Fin 64) (value : Byte) (s : State) : Host.Outcome State Fault Refusal :=
  served (.windowWrite h offset value) h s (placeClaim h (.write offset value))

end Sys2Proof.Machine
end

