-- ==== Sys2Proof/Machine/Exchanges.lean ====
section
/-! DEFINITION. The Exchange Table (chapter 4): SUBMIT, CANCEL, READ_EXCHANGE, instance creation, the taking of an end, posting and the backlog, the station flush, and the table's part of a port reset. -/

namespace Sys2Proof.Machine

/-! ## Numbering, occupancy, placement (R57 to R61) -/

/-- The submission age of a number (R59). -/
def submissionAge (s : State) (number : Word16) : Nat := (s.submission - number).toNat

/-- The finish age of a number (R60). -/
def finishAge (s : State) (number : Word16) : Nat := (s.finish - number).toNat

/-- The slot of greatest age in a list of slots; the first of several of one age. -/
def oldest (age : SlotNo → Nat) : List SlotNo → Option SlotNo
  | [] => none
  | i :: is =>
    match oldest age is with
    | none => some i
    | some j => if age j ≤ age i then some i else some j

/-- Host `h`'s occupancy (R61). -/
def occupancy (h : HostId) (s : State) : Nat :=
  tcount (fun _ x => decide (x.state ≠ .free) && decide (x.owner = h)) s.slots

/-- The lowest-numbered FREE slot (R57). -/
def freeSlot (s : State) : Option SlotNo := tfind (fun _ x => decide (x.state = .free)) s.slots

/-- A record is placed in a slot: it takes the submission number, the counter moves on (R59), and the Line Scheduler is asked for a run (R64, R66, R82). -/
def place (i : SlotNo) (x : Exchange) (s : State) : State :=
  askRun { s.setSlot i { x with submission := s.submission } with submission := s.submission + 1 }

/-! ## SUBMIT (R62 to R64) -/

/-- A station address is that of a FAILED station (R35, R63 check 6). -/
def addressFailed (a : StationAddr) (s : State) : Bool :=
  match a.record with
  | none => false
  | some n => decide ((s.station n).state = .failed)

/-- The first failed check of SUBMIT, in the order of R63; `none` if every check passes. DESIGN CHOICE (log 38): for check 3 a reply field with any value but 0xFF names a buffer, so a broadcast with 96 to 254 there gives BAD_PARAM; by R42 such a number names none, and check 4 would give BAD_BUFFER. -/
def submitRefusal (h : HostId) (s : State) : Option ResultCode :=
  let request := bufferField (arg h 3 s)
  let reply := bufferField (arg h 5 s)
  if classOf (arg h 2 s) = none ∨ 31 < (arg h 0 s).toNat ∨ 64 < (arg h 4 s).toNat
      ∨ (7 < (arg h 8 s).toNat ∧ arg h 8 s ≠ 0xFF) then some .badParam
  else if 0 < (arg h 4 s).toNat ∧ arg h 3 s = 0xFF then some .badParam
  else if arg h 0 s = 0 ∧ arg h 5 s ≠ 0xFF then some .badParam
  else if !(fieldHeld h request s && fieldHeld h reply s) then some .badBuffer
  else if !(fieldUnlent request s && fieldUnlent reply s) then some .bufferBusy
  else if addressFailed ((addressOf (arg h 0 s)).getD 0) s then some .stationDown
  else if s.active.exchangeQuota ≤ occupancy h s then some .quota
  else if (freeSlot s).isNone then some .noSlot
  else none

/-- The record SUBMIT places, but for its submission number (R62, R64). -/
def submitRecord (h : HostId) (s : State) : Exchange :=
  { freeExchange with
    state := .queued
    owner := h
    origin := .host
    tag := some (arg16 h 6 7 s)
    station := (addressOf (arg h 0 s)).getD 0
    function := arg h 1 s
    cls := (classOf (arg h 2 s)).getD .normal
    requestBuffer := (bufferField (arg h 3 s)).getD none
    requestLength := (arg h 4 s).toNat
    replyBuffer := (bufferField (arg h 5 s)).getD none
    retryLimit := if arg h 8 s = 0xFF then s.active.defaultRetries else (arg h 8 s).toNat
    replyTimeout := if arg h 9 s = 0 then s.active.defaultTimeout else (arg h 9 s).toNat }

/-- SUBMIT (R63, R64). -/
def submit (h : HostId) (s : State) : State :=
  match submitRefusal h s with
  | some r => answer h r s
  | none =>
    match freeSlot s with
    | none => answer h .noSlot s
    | some i =>
      let x := submitRecord h s
      answerWith h .ok 10 [natByte i.val, hiByte s.submission, loByte s.submission]
        (lend (.slot i) x.requestBuffer x.replyBuffer (place i x s))

def execSubmit (h : HostId) (s : State) : Host.Outcome State Fault Refusal := served (.submit h) h s (submit h)

/-! ## Instance creation (R66) -/

/-- The record of a poll instance, but for its submission number (R66). -/
def instanceRecord (e : EntryNo) (s : State) : Exchange :=
  let x := s.entry e
  { freeExchange with
    state := .queued
    owner := x.owner
    origin := .poll e
    station := x.station
    function := x.function
    cls := x.cls
    requestBuffer := x.requestBuffer
    requestLength := x.requestLength
    replyBuffer := x.snapshotBuffer
    retryLimit := s.active.defaultRetries
    replyTimeout := s.active.defaultTimeout }

/-- The table's answer to an instance creation: the slot and the state with the instance placed, or `none` where the quota or the slots refuse it (R66). -/
def createInstance (e : EntryNo) (s : State) : Option (SlotNo × State) :=
  if s.active.exchangeQuota ≤ occupancy (s.entry e).owner s then none
  else match freeSlot s with
    | none => none
    | some i => some (i, place i (instanceRecord e s) s)

/-! ## DONE, posting and the backlog (R70, R71) -/

/-- The completion record of an exchange as it stands in DONE (R70, R145). -/
def completionOf (i : SlotNo) (x : Exchange) : Completion where
  tag := x.tag.getD 0
  slot := i
  station := x.station
  function := x.function
  outcome := x.outcome.getD .aborted
  attempts := x.attempts
  replyLength := x.replyLength
  replyFunction := x.replyFunction
  payloadDropped := x.payloadDropped
  promoted := x.promoted

/-- A post: the completion record joins the owner's queue, COMPLETION is latched there, and the slot goes to FREE (R70, R146). -/
def post (i : SlotNo) (x : Exchange) (s : State) : State :=
  (latch x.owner .completion (s.setQueue x.owner (s.queue x.owner ++ [completionOf i x]))).setSlot i freeExchange

/-- A HOST-origin exchange, its end fields written in `x`, enters DONE: finish number, unlend, and a post if the owner's queue has room (R70). -/
def enterDone (i : SlotNo) (x : Exchange) (s : State) : State :=
  let done := { x with state := .done, finish := some s.finish }
  let s1 := unlend (.slot i) { s with finish := s.finish + 1 }
  if (s1.queue x.owner).length < Config.queueDepth then post i done s1 else s1.setSlot i done

/-- The end fields of an exchange that ends without having been on the line: CANCEL while QUEUED, and the flush (R70 step 1). -/
def endUngranted (o : ExOutcome) (x : Exchange) : Exchange :=
  { x with outcome := some o, replyLength := 0, replyFunction := none, payloadDropped := false }

/-- The oldest exchange of host `h`'s backlog (R71). -/
def oldestBacklog (h : HostId) (s : State) : Option SlotNo :=
  oldest (fun i => finishAge s ((s.slot i).finish.getD 0)) (tfilter (fun _ x => inBacklog h x) s.slots)

/-- A freed position of host `h`'s queue takes the oldest exchange of its backlog (R71, R147). -/
def postFromBacklog (h : HostId) (s : State) : State :=
  match oldestBacklog h s with
  | none => s
  | some i => post i (s.slot i) s

/-! ## The end of an exchange (R69, R70, R77) -/

/-- A record with the fields of the end the engine hands over (R69). -/
def withEnd (e : ExchangeEnd) (x : Exchange) : Exchange :=
  { x with
    outcome := some e.outcome
    lastResult := some e.result
    replyLength := e.replyLength
    replyFunction := e.replyFunction
    payloadDropped := e.payloadDropped }

/-- The instance end handed to the Poll List (R70, R77). -/
def instEndOf (e : ExchangeEnd) (entry : EntryNo) (x : Exchange) : InstanceEnd where
  entry := entry
  slot := e.slot
  outcome := e.outcome
  attempts := x.attempts
  replyLength := e.replyLength
  replyFunction := e.replyFunction
  payloadDropped := e.payloadDropped
  check := e.check
  orphan := decide (x.state = .orphan)

/-- The table takes an end: a HOST-origin exchange enters DONE, a poll instance is handed back, an ORPHAN leaves the table (R69, R70, R77). -/
def takeEnd (e : ExchangeEnd) (s : State) : State :=
  let x := s.slot e.slot
  let s1 := s.setHand { s.hand with exchangeEnd := none }
  match x.state, x.origin with
  | .active, .host => enterDone e.slot (withEnd e x) s1
  | .orphan, .host => (unlend (.slot e.slot) s1).setSlot e.slot freeExchange
  | .active, .poll p => (s1.setHand { s1.hand with instEnd := some (instEndOf e p x) }).setSlot e.slot freeExchange
  | .orphan, .poll p => (s1.setHand { s1.hand with instEnd := some (instEndOf e p x) }).setSlot e.slot freeExchange
  | _, _ => s1

/-- EXCHANGE_END_TAKEN (R69). -/
def exchangeEndTaken (s : State) : State :=
  match s.hand.exchangeEnd with
  | none => s
  | some e => takeEnd e s

def execExchangeEndTaken (s : State) : Host.Outcome State Fault Refusal := internal s exchangeEndTaken

/-! ## CANCEL (R72, R73) -/

/-- CANCEL's answer for a slot's record (R72). -/
def cancelSlot (h : HostId) (i : SlotNo) (s : State) : State :=
  let x := s.slot i
  if x.state = .free ∨ x.owner ≠ h ∨ x.origin ≠ .host ∨ x.state = .orphan then answer h .notOwner s
  else match x.state with
    | .queued => answer h .ok (enterDone i (endUngranted .cancelled x) s)
    | .active => answer h .deferred (s.setSlot i { x with cancelRequested := true })
    | _ => answer h .tooLate s

/-- An end of slot `i` that waits at the table is taken before the cancel: R73's order "end first" (log 7). -/
def settleEnd (i : SlotNo) (s : State) : State :=
  match s.hand.exchangeEnd with
  | none => s
  | some e => if e.slot = i then takeEnd e s else s

/-- CANCEL (R72). -/
def cancel (h : HostId) (s : State) : State :=
  match slotOf (arg h 0 s) with
  | none => answer h .badParam s
  | some i => cancelSlot h i (settleEnd i s)

def execCancel (h : HostId) (s : State) : Host.Outcome State Fault Refusal := served (.cancel h) h s (cancel h)

/-! ## READ_EXCHANGE (R78) -/

/-- READ_EXCHANGE (R78). -/
def readExchange (h : HostId) (s : State) : State :=
  match slotOf (arg h 0 s) with
  | none => answer h .badParam s
  | some i =>
    let x := s.slot i
    if x.state = .free ∨ x.owner ≠ h then answer h .notOwner s
    else answerWith h .ok 0 (exchangeCopy i x) s

def execReadExchange (h : HostId) (s : State) : Host.Outcome State Fault Refusal := served (.readExchange h) h s (readExchange h)

/-! ## The station flush (R74) -/

/-- An exchange that the flush of a station ends (R74). -/
def flushable (n : StationNo) (x : Exchange) : Bool :=
  decide (x.state = .queued) && decide (x.origin = .host) && decide (x.station = n.address)

/-- The flush at one slot. -/
def flushSlot (n : StationNo) (s : State) (i : SlotNo) : State :=
  if flushable n (s.slot i) then enterDone i (endUngranted .stationDown (s.slot i)) s else s

/-- The flush of a station, in ascending slot order (R74). -/
def flushStation (n : StationNo) (s : State) : State := (List.finRange 32).foldl (flushSlot n) s

/-- STATION_FLUSH: the table takes the flush handed to it (R34, R74). -/
def stationFlush (s : State) : State :=
  match s.hand.flush with
  | none => s
  | some n => flushStation n (s.setHand { s.hand with flush := none })

def execStationFlush (s : State) : Host.Outcome State Fault Refusal := internal s stationFlush

/-! ## Stopping an instance (R67, R76) -/

/-- A slot holds the running instance of an entry: ACTIVE, or already ORPHAN. -/
def runsFor (e : EntryNo) (x : Exchange) : Bool :=
  decide (x.origin = .poll e) && (decide (x.state = .active) || decide (x.state = .orphan))

/-- The instance of an entry is on the line (R53, R142). -/
def entryRuns (e : EntryNo) (s : State) : Bool :=
  match (s.entry e).inst with
  | none => false
  | some i => runsFor e (s.slot i)

/-! ## Host port reset (R79) -/

/-- The table's part of host `h`'s release at one slot (R79). -/
def resetSlot (h : HostId) (s : State) (i : SlotNo) : State :=
  let x := s.slot i
  if x.owner ≠ h then s
  else match x.state, x.origin with
    | .queued, .host => (unlend (.slot i) s).setSlot i freeExchange
    | .queued, .poll _ => s.setSlot i freeExchange
    | .done, _ => s.setSlot i freeExchange
    | .active, _ => s.setSlot i { x with state := .orphan }
    | _, _ => s

/-- The table's part of host `h`'s release, every slot in one step (R79). -/
def resetSlots (h : HostId) (s : State) : State := (List.finRange 32).foldl (resetSlot h) s

end Sys2Proof.Machine
end

