-- ==== Sys2Proof/Machine/Stations.lean ====
section
/-! DEFINITION. The Station Table but for its hold parts (chapter 2): READ_STATION, SUBSCRIBE, UNSUBSCRIBE, REVIVE, and the exchange-end report. -/

namespace Sys2Proof.Machine

/-- A change of a station: every subscriber's unread-change flag is set and STATION_CHANGE is handed to it (R30). -/
def stationChange (n : StationNo) (s : State) : State :=
  let x := s.station n
  { s.setStation n { x with unread := tmap (fun h u => u || tget x.subscribers h) x.unread } with
    notices := tmap (fun h c => if tget x.subscribers h then c.latched .stationChange else c) s.notices }

/-! ## The exchange-end report (R22 to R29) -/

/-- An outcome that counts as an answer (R23). -/
def answersStation (o : ExOutcome) : Bool := decide (o = .answered ∨ o = .refused)

/-- An outcome that counts as a failure of the station (R24). -/
def failsStation (o : ExOutcome) : Bool := decide (o = .noReply ∨ o = .badReply)

/-- The failure count increased by one and held at 15 (R24). -/
def moreFailures (n : Nat) : Nat := if 15 ≤ n then 15 else n + 1

/-- The record after a report, at a failure threshold: sequence bit (R28), state and count (R23 to R25), attention (R29). -/
def afterReport (threshold : Nat) (r : EndReport) (x : Station) : Station :=
  let y := { x with nextSeq := if r.transmitted then !x.nextSeq else x.nextSeq }
  if answersStation r.outcome then { y with state := .online, failures := 0, attention := r.attention }
  else if failsStation r.outcome then
    { y with
      failures := moreFailures x.failures
      state := if threshold ≤ moreFailures x.failures then .failed else .suspect }
  else y

/-- The report changes the station's state or raises its attention (R30). -/
def reportable (x y : Station) : Bool :=
  decide (y.state ≠ x.state) || (y.attention && !x.attention)

/-- The table takes a report whole: record, change reporting, and last the flush if the station has just entered FAILED (R22, R34). -/
def takeReport (r : EndReport) (s : State) : State :=
  let x := s.station r.station
  let y := afterReport s.active.failureThreshold r x
  let s1 := (s.setHand { s.hand with endReport := none }).setStation r.station y
  let s2 := if reportable x y then stationChange r.station s1 else s1
  if y.state = .failed ∧ x.state ≠ .failed then s2.setHand { s2.hand with flush := some r.station } else s2

/-- EXCHANGE_END_REPORT (R22): taken after the Exchange Table has taken the end (R69). -/
def exchangeEndReport (s : State) : State :=
  match s.hand.endReport with
  | none => s
  | some r => if s.hand.exchangeEnd.isSome then s else takeReport r s

def execExchangeEndReport (s : State) : Host.Outcome State Fault Refusal := internal s exchangeEndReport

/-! ## Station commands -/

/-- The station READ_STATION shows: the one named, or with 0xFF the lowest whose unread-change flag for the host is set (R33). -/
def readTarget (h : HostId) (b : Byte) (s : State) : Except ResultCode StationNo :=
  if b = 0xFF then
    match tfind (fun _ x => tget x.unread h) s.stations with
    | none => .error .notFound
    | some n => .ok n
  else match stationOf b with
    | none => .error .badParam
    | some n => .ok n

/-- READ_STATION (R33, R128). -/
def readStation (h : HostId) (s : State) : State :=
  match readTarget h (arg h 0 s) s with
  | .error r => answer h r s
  | .ok n =>
    let x := s.station n
    answerWith h .ok 0 (stationCopy h n x) (s.setStation n { x with unread := tput x.unread h false })

def execReadStation (h : HostId) (s : State) : Host.Outcome State Fault Refusal := served (.readStation h) h s (readStation h)

/-- SUBSCRIBE (R31). -/
def subscribe (h : HostId) (s : State) : State :=
  match stationOf (arg h 0 s) with
  | none => answer h .badParam s
  | some n =>
    let x := s.station n
    if tget x.subscribers h then answer h .ok s
    else answer h .ok (s.setStation n
      { x with subscribers := tput x.subscribers h true, unread := tput x.unread h false })

def execSubscribe (h : HostId) (s : State) : Host.Outcome State Fault Refusal := served (.subscribe h) h s (subscribe h)

/-- UNSUBSCRIBE (R32). -/
def unsubscribe (h : HostId) (s : State) : State :=
  match stationOf (arg h 0 s) with
  | none => answer h .badParam s
  | some n =>
    let x := s.station n
    if tget x.subscribers h then
      answer h .ok (s.setStation n
        { x with subscribers := tput x.subscribers h false, unread := tput x.unread h false })
    else answer h .notFound s

def execUnsubscribe (h : HostId) (s : State) : Host.Outcome State Fault Refusal := served (.unsubscribe h) h s (unsubscribe h)

/-- A flush of station `n` that waits at the Exchange Table is taken before a REVIVE of it: R37's order "FAILED and flushed; then REVIVE" (log 7). -/
def settleFlush (n : StationNo) (s : State) : State :=
  if s.hand.flush = some n then stationFlush s else s

/-- A FAILED station returns to UNKNOWN with count 0, and its subscribers are told (R36). -/
def reviveStation (n : StationNo) (s : State) : State :=
  stationChange n (s.setStation n { s.station n with state := .unknown, failures := 0 })

/-- REVIVE (R36). -/
def revive (h : HostId) (s : State) : State :=
  match stationOf (arg h 0 s) with
  | none => answer h .badParam s
  | some n =>
    if (s.station n).state = .failed then answer h .ok (reviveStation n (settleFlush n s))
    else answer h .badParam s

def execRevive (h : HostId) (s : State) : Host.Outcome State Fault Refusal := served (.revive h) h s (revive h)

end Sys2Proof.Machine
end

