-- ==== Sys2Proof/Machine/Holds.lean ====
section
/-! DEFINITION. Station holds (chapter 7): HOLD, RELEASE, lease expiry, the hand-over, and the Station Table's part of a port reset (R38, R126). -/

namespace Sys2Proof.Machine

/-- Host `k` holds a station record. -/
def heldBy (k : HostId) (x : Station) : Bool :=
  match x.hold with
  | none => false
  | some y => decide (y.holder = k)

/-- Host `k`'s held count (R115). -/
def heldCount (k : HostId) (s : State) : Nat := tcount (fun _ x => heldBy k x) s.stations

/-- Walk a wait list from its oldest entry: the hosts skipped at their hold limit, and the first waiter below it with the entries after its own (R118 step 2). -/
def chooseWaiter (count : HostId → Nat) : List Waiter → List HostId × Option (Waiter × List Waiter)
  | [] => ([], none)
  | w :: ws =>
    if count w.host < Config.holdLimit then ([], some (w, ws))
    else (w.host :: (chooseWaiter count ws).1, (chooseWaiter count ws).2)

/-- A notice handed to each host of a list, in order. -/
def latchEach (src : NoticeSource) (hosts : List HostId) (s : State) : State :=
  hosts.foldl (fun t k => latch k src t) s

/-- The hand-over of a station (R118): the holder departs, skipped waiters get HOLD_EXPIRED, the next waiter becomes holder with the lease kept in its entry and gets HOLD_GRANTED, or the hold part is removed; either way the scheduler is asked for a run. -/
def handOver (n : StationNo) (s : State) : State :=
  let x := s.station n
  match x.hold with
  | none => s
  | some k =>
    let s1 := s.setStation n { x with hold := none }
    let r := chooseWaiter (fun h => heldCount h s1) k.waiters
    let s2 := latchEach .holdExpired r.1 s1
    match r.2 with
    | none => askRun s2
    | some (w, ws) =>
      askRun (latch w.host .holdGranted (s2.setStation n { x with hold := some ⟨w.host, w.lease, ws, false⟩ }))

/-- Host `h` stands in a wait list. -/
def waits (h : HostId) (ws : List Waiter) : Bool := ws.any fun w => decide (w.host = h)

/-- Host `h`'s position at a hold part: 0 for the holder, else 1–3 (R116). -/
def holdPosition (h : HostId) (k : Hold) : Nat :=
  if k.holder = h then 0 else k.waiters.findIdx (fun w => decide (w.host = h)) + 1

/-- HOLD's answer with the hold part it returns: holder, lease remaining, position (R116, R172). -/
def answerHold (h : HostId) (r : ResultCode) (k : Hold) (s : State) : State :=
  answerWith h r 3 [natByte k.holder.val, hiByte k.lease, loByte k.lease, natByte (holdPosition h k)] s

/-- HOLD of a station 1–31 with a lease, cases 2 to 6 of R116. A renewal starts the lease afresh, so a tick that waits at the lease expires nothing (R122; log 9). -/
def holdStation (h : HostId) (n : StationNo) (lease : Word16) (s : State) : State :=
  let x := s.station n
  match x.hold with
  | none =>
    if Config.holdLimit ≤ heldCount h s then answer h .holdLimit s
    else
      let k : Hold := ⟨h, lease, [], false⟩
      answerHold h .ok k (s.setStation n { x with hold := some k })
  | some k =>
    if k.holder = h then
      let k1 := { k with lease := lease, tickWaiting := false }
      answerHold h .ok k1 (s.setStation n { x with hold := some k1 })
    else if waits h k.waiters then answerHold h .holdWaiting k s
    else if Config.holdLimit ≤ heldCount h s then answer h .holdLimit s
    else
      let k1 := { k with waiters := k.waiters ++ [⟨h, lease⟩] }
      answerHold h .holdWaiting k1 (s.setStation n { x with hold := some k1 })

/-- HOLD (R116). -/
def hold (h : HostId) (s : State) : State :=
  match stationOf (arg h 0 s) with
  | none => answer h .badParam s
  | some n => if arg16 h 1 2 s = 0 then answer h .badParam s else holdStation h n (arg16 h 1 2 s) s

def execHold (h : HostId) (s : State) : Host.Outcome State Fault Refusal := served (.hold h) h s (hold h)

/-- A hold part without host `h` in its wait list; the entries behind move up (R121, R126). -/
def withoutWaiter (h : HostId) (k : Hold) : Hold :=
  { k with waiters := k.waiters.filter fun w => decide (w.host ≠ h) }

/-- RELEASE of a station 1–31 (R121). -/
def releaseStation (h : HostId) (n : StationNo) (s : State) : State :=
  let x := s.station n
  match x.hold with
  | none => answer h .notHeld s
  | some k =>
    if k.holder = h then answer h .ok (handOver n s)
    else if waits h k.waiters then
      answer h .ok (s.setStation n { x with hold := some (withoutWaiter h k) })
    else answer h .notHeld s

/-- RELEASE (R121). -/
def release (h : HostId) (s : State) : State :=
  match stationOf (arg h 0 s) with
  | none => answer h .badParam s
  | some n => releaseStation h n s

def execRelease (h : HostId) (s : State) : Host.Outcome State Fault Refusal := served (.release h) h s (release h)

/-- A hold's lease has reached 0: HOLD_EXPIRED goes to the holder and the station is handed over (R120). -/
def expire (n : StationNo) (k : Hold) (s : State) : State := handOver n (latch k.holder .holdExpired s)

/-- The tick's claim at station `n`'s lease: lowered by one, and expired at 0 (R119). -/
def tickLease (n : StationNo) (s : State) : State :=
  match (s.station n).hold with
  | none => s
  | some k =>
    if k.lease ≤ 1 then expire n k s
    else s.setStation n { s.station n with hold := some { k with lease := k.lease - 1 } }

/-- LEASE_EXPIRY: a tick's claim at station `n`'s lease is taken: the one that waits at its last millisecond, which expires it; else the coming tick's, ahead of that tick's other claims (R119, R120; log 8). -/
def leaseExpiry (n : StationNo) (s : State) : State :=
  match (s.station n).hold with
  | none => noteLeaseTaken n s
  | some k =>
    if k.tickWaiting then expire n k s
    else if tget s.taken.leases n then s
    else tickLease n (noteLeaseTaken n s)

def execLeaseExpiry (n : StationNo) (s : State) : Host.Outcome State Fault Refusal := internal s (leaseExpiry n)

/-! ## Host port reset (R38, R126) -/

/-- A station record without host `h` as subscriber or waiter (R38, R126). -/
def forgetHost (h : HostId) (x : Station) : Station :=
  { x with
    subscribers := tput x.subscribers h false
    unread := tput x.unread h false
    hold := x.hold.map (withoutWaiter h) }

/-- Host `h`'s hold on a station, if it has one, is handed over. -/
def handOverIfHeld (h : HostId) (s : State) (n : StationNo) : State :=
  if heldBy h (s.station n) then handOver n s else s

/-- The Station Table's part of host `h`'s release: subscriptions, flags and waits first, then its holds in ascending station order (R38, R126). -/
def resetStations (h : HostId) (s : State) : State :=
  (List.finRange 31).foldl (handOverIfHeld h) { s with stations := tmap (fun _ x => forgetHost h x) s.stations }

end Sys2Proof.Machine
end

