-- ==== Sys2Proof/Machine/Polls.lean ====
section
/-! DEFINITION. The Poll List (chapter 8): POLL_START, POLL_RETIME, POLL_STOP, READ_POLL, falling due, the instance end with change detection, and the list's part of a port reset. -/

namespace Sys2Proof.Machine

/-! ## Falling due (R133) -/

/-- The Exchange Table has taken its part of host `h`'s release and the Poll List has not yet taken its own: a due of `h`'s entry then hands no creation (R133). -/
def releaseWindow (h : HostId) (s : State) : Bool :=
  decide ((s.port h).phase = .releasing .bpool ∨ (s.port h).phase = .releasing .plst)

/-- The missed count increased by one and held at 255 (R133). -/
def moreMissed (n : Nat) : Nat := if 255 ≤ n then 255 else n + 1

/-- An entry falls due: the instance is created or a miss counted, and the countdown is loaded with the period (R133). -/
def due (e : EntryNo) (s : State) : State :=
  let x := s.entry e
  if releaseWindow x.owner s then s.setEntry e { x with countdown := x.period }
  else if x.inst.isSome then s.setEntry e { x with missed := moreMissed x.missed, countdown := x.period }
  else match createInstance e s with
    | some (i, s1) => s1.setEntry e { x with inst := some i, countdown := x.period }
    | none => s.setEntry e { x with missed := moreMissed x.missed, countdown := x.period }

/-- A tick's claim at entry `e`: an ARMED countdown is lowered by one, and at 0 the entry falls due within the same claim (R132, R133). -/
def tickEntry (e : EntryNo) (s : State) : State :=
  let x := s.entry e
  if x.state = .armed then
    let y := { x with countdown := x.countdown - 1, tickWaiting := false }
    if y.countdown = 0 then due e (s.setEntry e y) else s.setEntry e y
  else s.setEntry e { x with tickWaiting := false }

/-- POLL_DUE: a tick's claim at entry `e` is taken: the one that waits there; else the coming tick's, ahead of that tick's other claims (R132, R133; log 8). -/
def pollDue (e : EntryNo) (s : State) : State :=
  if (s.entry e).tickWaiting then tickEntry e s
  else if tget s.taken.entries e then s
  else tickEntry e (noteEntryTaken e s)

def execPollDue (e : EntryNo) (s : State) : Host.Outcome State Fault Refusal := internal s (pollDue e)

/-! ## POLL_START (R130, R131) -/

/-- The lowest-numbered UNUSED entry (R131). -/
def unusedSlot (s : State) : Option EntryNo := tfind (fun _ x => decide (x.state = .unused)) s.entries

/-- The first failed check of POLL_START, in the order of R130. DESIGN CHOICE (log 34): check 3 is made for both buffers before check 4 for either, so a request buffer that is attached beside a snapshot buffer that is not HOST(h) gives BAD_BUFFER; R130 leaves open whether the buffers or the checks come first. -/
def pollStartRefusal (h : HostId) (s : State) : Option ResultCode :=
  let request := bufferField (arg h 3 s)
  let snapshot := bufferField (arg h 5 s)
  if (stationOf (arg h 0 s)).isNone ∨ classOf (arg h 2 s) = none ∨ 64 < (arg h 4 s).toNat
      ∨ arg16 h 6 7 s = 0 ∨ 1 < (arg h 10 s).toNat then some .badParam
  else if 0 < (arg h 4 s).toNat ∧ arg h 3 s = 0xFF then some .badParam
  else if !(fieldHeld h request s && fieldHeld h snapshot s) then some .badBuffer
  else if !(fieldUnlent request s && fieldUnlent snapshot s) then some .bufferBusy
  else if (unusedSlot s).isNone then some .noEntry
  else none

/-- The entry POLL_START fills (R131 step 1). -/
def pollStartEntry (h : HostId) (s : State) : PollEntry :=
  { unusedEntry with
    state := .armed
    owner := h
    station := (addressOf (arg h 0 s)).getD 0
    function := arg h 1 s
    cls := (classOf (arg h 2 s)).getD .normal
    requestBuffer := (bufferField (arg h 3 s)).getD none
    requestLength := (arg h 4 s).toNat
    snapshotBuffer := (bufferField (arg h 5 s)).getD none
    period := arg16 h 6 7 s
    countdown := arg16 h 8 9 s
    changeDetect := decide (arg h 10 s = 1) }

/-- The entry armed, its buffers lent to it, and the due of a first delay of 0 taken (R131). -/
def arm (h : HostId) (e : EntryNo) (s : State) : State :=
  let x := pollStartEntry h s
  let s1 := lend (.entry e) x.requestBuffer x.snapshotBuffer (s.setEntry e x)
  if x.countdown = 0 then due e s1 else s1

/-- POLL_START (R130, R131). -/
def pollStart (h : HostId) (s : State) : State :=
  match pollStartRefusal h s with
  | some r => answer h r s
  | none =>
    match unusedSlot s with
    | none => answer h .noEntry s
    | some e => answerWith h .ok 11 [natByte e.val] (arm h e s)

def execPollStart (h : HostId) (s : State) : Host.Outcome State Fault Refusal := served (.pollStart h) h s (pollStart h)

/-! ## POLL_RETIME (R138) -/

/-- Entry `e` is UNUSED or owned by a host other than `h`. -/
def notOwned (h : HostId) (x : PollEntry) : Bool := decide (x.state = .unused) || decide (x.owner ≠ h)

/-- A new period and first delay; a first delay of 0 makes the entry due at once (R138). -/
def retime (e : EntryNo) (period first : Word16) (s : State) : State :=
  let s1 := s.setEntry e { s.entry e with period := period, countdown := first }
  if first = 0 then due e s1 else s1

/-- POLL_RETIME (R138). -/
def pollRetime (h : HostId) (s : State) : State :=
  match entryOf (arg h 0 s) with
  | none => answer h .badParam s
  | some e =>
    if arg16 h 1 2 s = 0 then answer h .badParam s
    else if notOwned h (s.entry e) then answer h .notOwner s
    else if (s.entry e).state = .stopping then answer h .notNow s
    else answer h .ok (retime e (arg16 h 1 2 s) (arg16 h 3 4 s) s)

def execPollRetime (h : HostId) (s : State) : Host.Outcome State Fault Refusal := served (.pollRetime h) h s (pollRetime h)

/-! ## The instance end (R135 to R137) -/

/-- The sequence correction for a payload length: the check with initial value 0x0000 over 0x20 and `L + 2` bytes of 0x00 (R136). -/
def sequenceCorrection (length : Nat) : Word16 := checkBytes 0 (0x20 :: List.replicate (length + 2) 0)

/-- A reply is the same as the entry's last one (R136). -/
def sameReply (length : Nat) (check : Word16) (x : PollEntry) : Bool :=
  match x.lastCheck with
  | none => false
  | some k =>
    decide (x.lastLength = some length)
      && (decide (check = k) || decide (check ^^^ k = sequenceCorrection length))

/-- The end of an instance whose entry still polls: instance absent, outcome recorded, an accepted reply's length recorded and, with change detect set, the reply compared (R135, R136). -/
def recordEnd (d : InstanceEnd) (s : State) : State :=
  let x := s.entry d.entry
  let y := { x with inst := none, lastOutcome := some d.outcome }
  if answersStation d.outcome then
    let z := { y with lastLength := some d.replyLength }
    match x.changeDetect, d.check with
    | true, some c =>
      if sameReply d.replyLength c x then s.setEntry d.entry { z with lastCheck := some c }
      else latch x.owner .pollChange (s.setEntry d.entry { z with lastCheck := some c, unreadChange := true })
    | _, _ => s.setEntry d.entry z
  else s.setEntry d.entry y

/-- The stop of an entry is complete: its buffers are unlent and it becomes UNUSED (R137, R139). -/
def freeEntry (e : EntryNo) (s : State) : State := (unlend (.entry e) s).setEntry e unusedEntry

/-- The Poll List takes an instance end (R135, R137). -/
def takeInstEnd (d : InstanceEnd) (s : State) : State :=
  let s1 := s.setHand { s.hand with instEnd := none }
  match (s.entry d.entry).state, d.orphan with
  | .armed, false => recordEnd d s1
  | .armed, true => freeEntry d.entry s1
  | .stopping, _ => freeEntry d.entry s1
  | .unused, _ => s1

/-- INSTANCE_END (R135). -/
def instanceEnd (s : State) : State :=
  match s.hand.instEnd with
  | none => s
  | some d => takeInstEnd d s

def execInstanceEnd (s : State) : Host.Outcome State Fault Refusal := internal s instanceEnd

/-- An instance end of entry `e` that waits at the Poll List is taken before the stop: R140's order "end first" (log 7). -/
def settleInstEnd (e : EntryNo) (s : State) : State :=
  match s.hand.instEnd with
  | none => s
  | some d => if d.entry = e then takeInstEnd d s else s

/-! ## POLL_STOP (R139, R67) -/

/-- The stop of an entry on the line: its instance becomes ORPHAN and the entry STOPPING (R76, R139). -/
def stopRunning (e : EntryNo) (i : SlotNo) (s : State) : State :=
  (s.setSlot i { s.slot i with state := .orphan }).setEntry e { s.entry e with state := .stopping, tickWaiting := false }

/-- POLL_STOP of an ARMED entry by its owner, by its instance (R139). -/
def stopArmed (h : HostId) (e : EntryNo) (s : State) : State :=
  match (s.entry e).inst with
  | none => answer h .ok (freeEntry e s)
  | some i =>
    if runsFor e (s.slot i) then answer h .deferred (stopRunning e i s)
    else if (s.slot i).origin = .poll e ∧ (s.slot i).state = .queued then
      answer h .ok (freeEntry e (s.setSlot i freeExchange))
    else answer h .ok (freeEntry e s)

/-- POLL_STOP of an entry (R139). -/
def stopEntry (h : HostId) (e : EntryNo) (s : State) : State :=
  if notOwned h (s.entry e) then answer h .notOwner s
  else if (s.entry e).state = .stopping then answer h .deferred s
  else stopArmed h e s

/-- POLL_STOP (R139). An end of the entry's instance that waits is taken first when the host owns the entry. -/
def pollStop (h : HostId) (s : State) : State :=
  match entryOf (arg h 0 s) with
  | none => answer h .badParam s
  | some e =>
    if notOwned h (s.entry e) then answer h .notOwner s
    else stopEntry h e (settleInstEnd e s)

def execPollStop (h : HostId) (s : State) : Host.Outcome State Fault Refusal := served (.pollStop h) h s (pollStop h)

/-! ## READ_POLL (R141) -/

/-- The entry READ_POLL shows (R141). -/
def readPollTarget (h : HostId) (b : Byte) (s : State) : Except ResultCode EntryNo :=
  if b = 0xFF then
    match tfind (fun _ x => !notOwned h x && x.unreadChange) s.entries with
    | none => .error .notFound
    | some e => .ok e
  else match entryOf b with
    | none => .error .badParam
    | some e => if notOwned h (s.entry e) then .error .notOwner else .ok e

/-- READ_POLL (R141). -/
def readPoll (h : HostId) (s : State) : State :=
  match readPollTarget h (arg h 0 s) s with
  | .error r => answer h r s
  | .ok e =>
    let x := s.entry e
    answerWith h .ok 0 (entryCopy e x) (s.setEntry e { x with unreadChange := false })

def execReadPoll (h : HostId) (s : State) : Host.Outcome State Fault Refusal := served (.readPoll h) h s (readPoll h)

/-! ## Host port reset (R142) -/

/-- An entry after host `h`'s release, by whether its instance still runs on the line (R142). -/
def resetEntry (h : HostId) (runs : Bool) (x : PollEntry) : PollEntry :=
  if x.owner ≠ h then x
  else match x.state with
    | .unused => x
    | .stopping => { x with unreadChange := false }
    | .armed => if runs then { x with state := .stopping, unreadChange := false, tickWaiting := false } else unusedEntry

/-- An instance end of one of host `h`'s entries that waits at the Poll List is taken before the release's part (log 7). -/
def settleOwnInstEnd (h : HostId) (s : State) : State :=
  match s.hand.instEnd with
  | none => s
  | some d => if (s.entry d.entry).owner = h then takeInstEnd d s else s

/-- The Poll List's part of host `h`'s release, every entry in one step (R142). -/
def resetEntries (h : HostId) (s : State) : State :=
  let s1 := settleOwnInstEnd h s
  { s1 with entries := tmap (fun e x => resetEntry h (entryRuns e s1) x) s1.entries }

end Sys2Proof.Machine
end

