-- ==== Sys2Proof/Machine/Completions.lean ====
section
/-! DEFINITION. Completion Queues and Notice Controllers (chapter 9): POP_COMPLETION, the notice code read, the notice mask write. Posting and latching stand in Machine/Exchanges.lean and Machine/Ops.lean. -/

namespace Sys2Proof.Machine

/-- POP_COMPLETION: the head record is copied out and removed, and the freed position takes the oldest exchange of the backlog in the same claim (R147). -/
def popCompletion (h : HostId) (s : State) : State :=
  match s.queue h with
  | [] => answer h .empty s
  | c :: rest => answerWith h .ok 0 (completionCopy c) (postFromBacklog h (s.setQueue h rest))

def execPopCompletion (h : HostId) (s : State) : Host.Outcome State Fault Refusal := served (.popCompletion h) h s (popCompletion h)

/-- A controller with a source's latch cleared (R154). -/
def NoticeCtl.cleared (c : NoticeCtl) (n : Nat) : NoticeCtl := { c with pending := c.pending &&& ~~~noticeBit n }

/-- A read of the notice code location: the highest-priority active source, whose latch is cleared, or 0xFF (R154). -/
def noticeCodeRead (h : HostId) (s : State) : State :=
  match highestActive (s.notice h) with
  | none => drive h 0xFF s
  | some n => drive h (natByte n) (s.setNotice h ((s.notice h).cleared n))

def execNoticeCodeRead (h : HostId) (s : State) : Host.Outcome State Fault Refusal := served (.noticeCodeRead h) h s (noticeCodeRead h)

/-- A write of the notice mask location (R155). -/
def noticeMaskWrite (h : HostId) (value : Byte) (s : State) : State :=
  s.setNotice h { s.notice h with mask := value }

def execNoticeMaskWrite (h : HostId) (value : Byte) (s : State) : Host.Outcome State Fault Refusal :=
  served (.noticeMaskWrite h value) h s (noticeMaskWrite h value)

end Sys2Proof.Machine
end

