-- ==== Sys2Proof/Machine/SettingsUnit.lean ====
section
/-! DEFINITION. The Settings Unit (chapter 10): SET_SETTINGS, READ_SETTINGS, and the application of a settings record. -/

namespace Sys2Proof.Machine

/-- An application of a record: it becomes the active record and SETTINGS is handed to all hosts (R161 steps 1 and 3). -/
def applySettings (x : Settings) (s : State) : State := latchAll .settings { s with active := x }

/-- The application made at the engine's entry to IDLE, when a record is pending; the pending record is discarded (R161). -/
def applyStaged (s : State) : State :=
  match s.staged with
  | none => s
  | some x => applySettings x { s with staged := none }

/-- SET_SETTINGS (R160). -/
def setSettings (h : HostId) (s : State) : State :=
  let x := settingsArg h s
  if !settingsInRange x then answer h .badParam s
  else if s.engine.state = .idle then answer h .ok (applySettings x s)
  else answer h .pending { s with staged := some x }

def execSetSettings (h : HostId) (s : State) : Host.Outcome State Fault Refusal := served (.setSettings h) h s (setSettings h)

/-- READ_SETTINGS (R164). -/
def readSettings (h : HostId) (s : State) : State := answerWith h .ok 0 (settingsCopy s) s

def execReadSettings (h : HostId) (s : State) : Host.Outcome State Fault Refusal := served (.readSettings h) h s (readSettings h)

end Sys2Proof.Machine
end

