-- ==== Sys2Proof/Machine/LineInterface.lean ====
section
/-! DEFINITION. The Line Interface (chapter 1): sending with the echo comparator, cuts, breaks, receiving, gaps, the stuck line, and what is due at the receiver. An event is taken when the sides stand as its rule says; the clock periods that lead up to it are counted in Machine/Clock.lean (log 3). -/

namespace Sys2Proof.Machine

/-! ## Sending (R10 to R13) -/

/-- A spacing-run measurement begun now, at the active rate (R1, R5). -/
def newRun (s : State) : SpacingRun := ⟨bitClocks s, charBits s, 0, false⟩

/-- A character the receiver is taking no longer counts as begun after the last sent character's end (R12). -/
def staleChar (c : Option RxChar) : Option RxChar := c.map fun x => { x with fresh := false }

/-- A spacing run has reached 11 bit times. -/
def runReached (r : Option SpacingRun) : Bool :=
  match r with
  | none => false
  | some x => x.reached

/-- The Line Interface takes a send order: OPENING and ECHO, the opening break begins, a frame being assembled is abandoned, and a spacing run under way passes to the comparator (R10). In any other transmit state it does not take the order. -/
def takeOrder (o : SendOrder) (s : State) : State :=
  let l := s.lif
  if l.tx = .released then
    s.setLif { l with
      tx := .opening
      rx := .echo
      gap := none
      marking := none
      char := staleChar l.char
      sending := { idleSending with order := o, echoBreak := runReached l.run, bit := bitClocks s, charBits := charBits s } }
  else s

/-- Characters of the frame being sent (R6). -/
def frameChars (d : Sending) : Nat := d.order.length + 5

/-- A request fetch that waits at the arbiter is given up with its frame (log 15). -/
def dropFetch (c : Option EngineClaim) : Option EngineClaim :=
  match c with
  | some (.fetch _ _) => none
  | other => other

/-- Clock periods to the next bit boundary of what is being sent (R13). -/
def toBoundary (d : Sending) : Nat := (d.bit - d.elapsed % d.bit) % d.bit

/-- A cut by the state of the transmit side (R13). -/
def cut (s : State) : State :=
  let l := s.lif
  let d := l.sending
  if l.tx = .opening ∨ l.tx = .characters then
    { s.setLif { l with
        tx := .cutting
        sending := { d with lead := toBoundary d, leadLevel := txData s, elapsed := 0, bit := bitClocks s, nextPayload := none } } with
      engineClaim := dropFetch s.engineClaim }
  else s

/-- The comparator sees a collision: one collision report, and at once the cut (R12, R13). -/
def collide (s : State) : State := cut (s.setLif (s.lif.give .collision))

/-- The driver is released: RELEASED and HUNT, with a new spacing-run measurement if the input is spacing (R11, R13). -/
def releaseDriver (s : State) : State :=
  let l := s.lif
  s.setLif { l with
    tx := .released
    rx := .hunt
    sending := idleSending
    char := none
    gap := none
    run := if l.input then none else some (newRun s) }

/-- The echo gave the character being sent: taken, begun in time, same bits, no framing error (R12). -/
def echoRight (d : Sending) : Bool := decide (d.echo = some (.good d.value))

/-- The engine places the fetch of the request byte that character `i + 1` will carry, at the start of character `i` (R51, R52). -/
def placeFetch (i : Nat) (s : State) : State :=
  if 2 ≤ i ∧ i - 2 < s.lif.sending.order.length then
    match s.engine.current with
    | none => s
    | some slot =>
      match (s.slot slot).requestBuffer with
      | none => s
      | some b => { s with engineClaim := some (.fetch b (i - 2)) }
  else s

/-- Character `i` of the frame begins with a value and the check over the bytes begun so far (R2, R11). A received character under way is stale from here on (R12); for the address character, which has no sent character before it, that its echo must begin after the opening break is a DESIGN CHOICE (log 37). -/
def beginCharacter (i : Nat) (value : Byte) (check : Word16) (payload : Option Byte) (s : State) : State :=
  let l := s.lif
  placeFetch i (s.setLif { l with
    tx := .characters
    char := staleChar l.char
    sending := { l.sending with
      index := i, value := value, check := check, nextPayload := payload, echo := none
      bit := bitClocks s, charBits := charBits s, elapsed := 0 } })

/-- The value of character `i`, the check after it and the payload byte still in place; `none` while its payload byte is not in place (R6, R8, R11). -/
def characterValue (d : Sending) (i : Nat) : Option (Byte × Word16 × Option Byte) :=
  if i = 1 then some (d.order.function, checkByte d.check d.order.function, d.nextPayload)
  else if i = 2 then
    some (natByte d.order.length, checkByte d.check (natByte d.order.length), d.nextPayload)
  else if i < d.order.length + 3 then d.nextPayload.map fun b => (b, checkByte d.check b, none)
  else if i = d.order.length + 3 then some (hiByte d.check, d.check, d.nextPayload)
  else some (loByte d.check, d.check, d.nextPayload)

/-- The marking part of the opening break is right: its sample found marking, or, taken before the sample, the input is marking now (R12; log 18). -/
def markRight (l : Lif) : Bool := !l.sending.markFailed && (l.sending.markChecked || l.input)

/-- OPENING_BREAK_END: with the opening break back on the echo, the address byte begins (R4, R7, R10, R12). -/
def openingBreakEnd (s : State) : State :=
  let d := s.lif.sending
  if s.lif.tx = .opening ∧ d.echoBreak ∧ markRight s.lif then
    let a := addressByte d.order.station d.order.sequence
    beginCharacter 0 a (checkByte checkInit a) none s
  else s

def execOpeningBreakEnd (s : State) : Host.Outcome State Fault Refusal := internal s openingBreakEnd

/-- CHARACTER_SENT: at the nominal end of a sent character the comparator checks the echo; a wrong one is a collision, a right one lets the next character begin (R11, R12). -/
def characterSent (s : State) : State :=
  let d := s.lif.sending
  if s.lif.tx = .characters ∧ d.index < frameChars d then
    if !echoRight d then collide s
    else if d.index + 1 = frameChars d then s.setLif { s.lif with sending := { d with index := d.index + 1, echo := none } }
    else match characterValue d (d.index + 1) with
      | none => s
      | some (v, c, p) => beginCharacter (d.index + 1) v c p s
  else s

def execCharacterSent (s : State) : Host.Outcome State Fault Refusal := internal s characterSent

/-- One of the comparator's failures stands (R12). -/
def comparatorFails (l : Lif) : Bool :=
  match l.tx with
  | .opening => !l.sending.echoBreak || !markRight l
  | .characters => (decide (l.sending.index < frameChars l.sending) && !echoRight l.sending) || runReached l.run
  | _ => false

/-- ECHO_COLLISION (R12). -/
def echoCollision (s : State) : State := if comparatorFails s.lif then collide s else s

def execEchoCollision (s : State) : Host.Outcome State Fault Refusal := internal s echoCollision

/-- The last character has been sent and came back right (R11). -/
def frameWhole (d : Sending) : Bool :=
  decide (d.index = frameChars d) || (decide (d.index + 1 = frameChars d) && echoRight d)

/-- FRAME_SENT (R11). -/
def frameSent (s : State) : State :=
  if s.lif.tx = .characters ∧ frameWhole s.lif.sending then
    let t := releaseDriver s
    t.setLif (t.lif.give .sent)
  else s

def execFrameSent (s : State) : Host.Outcome State Fault Refusal := internal s frameSent

/-- CUT_BREAK_END (R13). -/
def cutBreakEnd (s : State) : State :=
  if s.lif.tx = .cutting then
    let t := releaseDriver s
    t.setLif (t.lif.give .cutComplete)
  else s

def execCutBreakEnd (s : State) : Host.Outcome State Fault Refusal := internal s cutBreakEnd

/-! ## Receiving (R3, R5, R14 to R17) -/

/-- The frame in ASSEMBLING fails: bad-frame report, HUNT (R16). -/
def failFrame (reason : BadReason) (s : State) : State :=
  s.setLif (({ s.lif with rx := .hunt, gap := none }).give (.badFrame reason))

/-- The break detection outside ECHO and STUCK: a frame being assembled fails with reason BREAK; the count is 0, the receiver in IN_BREAK, and the frame-start report is given (R5). -/
def openFrame (s : State) : State :=
  let l := if s.lif.rx = .assembling then s.lif.give (.badFrame .brk) else s.lif
  s.setLif (({ l with
    rx := .inBreak
    gap := none
    char := none
    frame := { l.frame with count := 0, check := checkInit } }).give .frameStart)

/-- BREAK_DETECTED: a spacing run reaches 11 bit times (R5); in ECHO it is for the comparator alone (R12), in STUCK it gives nothing (R19). What began with the run is a break and no character, so the receiver has no character under way after it, and its next falling edge is a start edge (R3; log 19). -/
def breakDetected (s : State) : State :=
  match s.lif.run with
  | none => s
  | some r =>
    if r.reached then s
    else
      let s1 := s.setLif { s.lif with run := some { r with reached := true }, char := none }
      match s.lif.rx with
      | .echo =>
        if s.lif.tx = .opening then s1.setLif { s1.lif with sending := { s1.lif.sending with echoBreak := true } }
        else if s.lif.tx = .characters then collide s1
        else s1
      | .stuck => s
      | .inBreak => s
      | .hunt => openFrame s1
      | .assembling => openFrame s1

def execBreakDetected (s : State) : Host.Outcome State Fault Refusal := internal s breakDetected

/-- The input goes from spacing to marking: the run ends; in IN_BREAK the frame begins to be assembled and the first gap to be timed; in STUCK a marking period begins (R5, R17, R19). -/
def rise (s : State) : State :=
  let l := s.lif
  let l1 := { l with input := true, run := none }
  match l.rx with
  | .inBreak => s.setLif { l1 with rx := .assembling, gap := some ⟨Config.gapCharacters * charClocks s, 0, false⟩ }
  | .stuck => s.setLif { l1 with marking := some ⟨charClocks s, 0⟩ }
  | _ => s.setLif l1

/-- The input goes from marking to spacing: a spacing run begins, a marking period ends, and with no character under way the edge is the start edge of a possible character (R3, R5, R19). -/
def fall (s : State) : State :=
  let l := s.lif
  s.setLif { l with
    input := false
    run := some (newRun s)
    marking := none
    char := some (l.char.getD ⟨bitClocks s, s.active.stopBits, 0, false, true, 0, false⟩) }

/-- The gap limit passed while a start edge was under test (R17). -/
def gapPassed (g : Option Gap) : Bool :=
  match g with
  | none => false
  | some x => x.passed

/-- HALF_BIT_SAMPLE: marking proves a glitch, and fails the frame if the gap limit has passed; spacing makes the start bit valid and ends a running gap (R3, R17). -/
def halfBitSample (s : State) : State :=
  let l := s.lif
  match l.char with
  | none => s
  | some c =>
    if c.valid then s
    else if l.input then
      let s1 := s.setLif { l with char := none }
      if l.rx = .assembling ∧ gapPassed l.gap then failFrame .gap s1 else s1
    else s.setLif { l with char := some { c with valid := true }, gap := if l.rx = .assembling then none else l.gap }

def execHalfBitSample (s : State) : Host.Outcome State Fault Refusal := internal s halfBitSample

/-- GAP_LIMIT: with no start edge under test the frame fails at the limit; with one, at its sample if it proves a glitch (R17). -/
def gapLimit (s : State) : State :=
  let l := s.lif
  match l.rx, l.gap with
  | .assembling, some g =>
    if g.passed then s
    else if l.char.isSome then s.setLif { l with gap := some { g with passed := true } }
    else failFrame .gap s
  | _, _ => s

def execGapLimit (s : State) : Host.Outcome State Fault Refusal := internal s gapLimit

/-- A byte is written into the frame assembly buffer at the place its count gives; the count and the check move on (R14). -/
def storeCharacter (b : Byte) (f : FrameBuffer) : FrameBuffer :=
  let g :=
    if f.count = 0 then { f with address := b }
    else if f.count = 1 then { f with function := b }
    else if f.count = 2 then { f with length := b }
    else if hp : f.count - 3 < f.length.toNat ∧ f.count - 3 < 64 then
      { f with payload := tput f.payload ⟨f.count - 3, hp.2⟩ b }
    else if f.count = f.length.toNat + 3 then { f with checkHigh := b }
    else { f with checkLow := b }
  { g with count := f.count + 1, check := checkByte f.check b }

/-- A good character taken in ASSEMBLING: stored; the frame may fail on LENGTH, complete, or fail on CHECK; otherwise the next gap begins at the character's nominal end, half a bit later (R14 to R17). -/
def assemble (b : Byte) (halfBit : Nat) (s : State) : State :=
  let f := s.lif.frame
  let g := storeCharacter b f
  let s1 := s.setLif { s.lif with frame := g }
  if f.count = 2 ∧ Config.maxPayload < b.toNat then failFrame .length s1
  else if 3 ≤ f.count ∧ f.count = f.length.toNat + 4 then
    if g.check = 0 then s1.setLif (({ s1.lif with rx := .hunt, gap := none }).give (.frameComplete (frameInfo g)))
    else failFrame .check s1
  else s1.setLif { s1.lif with gap := some ⟨halfBit + Config.gapCharacters * charClocks s, 0, false⟩ }

/-- Clock periods from the start edge to the middle of bit `k` of a character, the start bit being bit 0 (R3). -/
def bitMiddle (c : RxChar) (k : Nat) : Nat := k * c.bit + c.bit / 2

/-- The middle of the character's last stop bit has passed: every bit of it has been sampled (R3). -/
def RxChar.whole (c : RxChar) : Bool := decide (bitMiddle c (8 + c.stops) ≤ c.elapsed)

/-- CHARACTER_TAKEN: a good character at the middle of its last stop bit goes to the frame in ASSEMBLING, to the comparator in ECHO, and is discarded otherwise. Its own samples say whether it is good, whatever the input does after the last of them; taken before that one, it needs the input marking (R3, R12, R14, R19; log 3). -/
def characterTaken (b : Byte) (s : State) : State :=
  let l := s.lif
  match l.char with
  | none => s
  | some c =>
    if c.valid ∧ ¬ c.badStop ∧ (c.whole ∨ l.input) then
      let s1 := s.setLif { l with char := none }
      match l.rx with
      | .assembling => assemble b (c.bit / 2) s1
      | .echo =>
        if c.fresh then s1.setLif { s1.lif with sending := { s1.lif.sending with echo := some (.good b) } } else s1
      | _ => s1
    else s

def execCharacterTaken (b : Byte) (s : State) : Host.Outcome State Fault Refusal := internal s (characterTaken b)

/-- FRAMING_ERROR: the input returns to marking after a character with a spacing stop bit (R3, R12, R16). A character whose stop bits have all been sampled marking has no framing error; one with a sample still to come is taken to have it (log 3). Taken while the input is spacing, it is that edge too (log 19). -/
def framingError (s : State) : State :=
  match s.lif.char with
  | none => s
  | some c =>
    if c.valid ∧ (c.badStop ∨ ¬ c.whole) then
      let t := if s.lif.input then s else rise s
      let s1 := t.setLif { t.lif with char := none }
      match s.lif.rx with
      | .assembling => failFrame .framing s1
      | .echo =>
        if c.fresh then s1.setLif { s1.lif with sending := { s1.lif.sending with echo := some .framing } } else s1
      | _ => s1
    else s

def execFramingError (s : State) : Host.Outcome State Fault Refusal := internal s framingError

/-! ## The stuck line (R18, R19) -/

/-- STUCK_DETECTED: a spacing run passes the stuck limit with the transmit side RELEASED (R18). -/
def stuckDetected (s : State) : State :=
  let l := s.lif
  if l.tx = .released ∧ l.run.isSome ∧ (l.rx = .hunt ∨ l.rx = .inBreak ∨ l.rx = .assembling) then
    s.setLif (({ l with rx := .stuck, gap := none, char := none, marking := none }).give .stuck)
  else s

def execStuckDetected (s : State) : Host.Outcome State Fault Refusal := internal s stuckDetected

/-- LINE_RECOVERED: one marking period has lasted a full character time (R19). -/
def lineRecovered (s : State) : State :=
  let l := s.lif
  if l.rx = .stuck ∧ l.marking.isSome then
    s.setLif (({ l with rx := .hunt, marking := none }).give .recovery)
  else s

def execLineRecovered (s : State) : Host.Outcome State Fault Refusal := internal s lineRecovered

/-! ## What is due at the receiver (R3, R5, R17 to R19) -/

/-- The receiver's events that come when a measure has run its time. -/
inductive RxEvent where
  | halfBit
  | taken (value : Byte)
  | framing
  | brk
  | stuck
  | gap
  | recovery
  deriving DecidableEq, Repr

/-- The command that takes a receiver's event. -/
def RxEvent.command : RxEvent → Instr
  | .halfBit => .halfBitSample
  | .taken v => .characterTaken v
  | .framing => .framingError
  | .brk => .breakDetected
  | .stuck => .stuckDetected
  | .gap => .gapLimit
  | .recovery => .lineRecovered

/-- What a receiver's event does. -/
def RxEvent.act : RxEvent → State → State
  | .halfBit => halfBitSample
  | .taken v => characterTaken v
  | .framing => framingError
  | .brk => breakDetected
  | .stuck => stuckDetected
  | .gap => gapLimit
  | .recovery => lineRecovered

/-- An event, if a condition holds. -/
def dueIf {α : Type} (p : Bool) (e : α) : Option α := if p then some e else none

/-- Clock periods of the stuck-line limit of a run (R18). -/
def stuckLimit (r : SpacingRun) : Nat := Config.stuckCharacters * r.charBits * r.bit

/-- The character under way is due for its half-bit sample, or settled as bad by the input's marking, or taken as good (R3). -/
def dueCharacter (l : Lif) : Option RxEvent :=
  match l.char with
  | none => none
  | some c =>
    if !c.valid then dueIf (decide (c.bit / 2 ≤ c.elapsed)) .halfBit
    else if c.badStop then dueIf l.input .framing
    else dueIf c.whole (.taken c.value)

/-- The spacing run under way is due as a break, or as a stuck line (R5, R18). -/
def dueRun (l : Lif) : Option RxEvent :=
  match l.run with
  | none => none
  | some r =>
    if !r.reached && decide (Config.breakDetectBits * r.bit ≤ r.elapsed) && decide (l.rx ≠ .stuck ∧ l.rx ≠ .inBreak) then
      some .brk
    else dueIf (decide (l.tx = .released) && decide (l.rx = .hunt ∨ l.rx = .inBreak ∨ l.rx = .assembling)
      && decide (stuckLimit r ≤ r.elapsed)) .stuck

/-- The gap limit has passed (R17). -/
def dueGap (l : Lif) : Option RxEvent :=
  match l.gap with
  | none => none
  | some g => dueIf (decide (l.rx = .assembling) && !g.passed && decide (g.limit ≤ g.elapsed)) .gap

/-- The stuck line has recovered (R19). -/
def dueRecovery (l : Lif) : Option RxEvent :=
  match l.marking with
  | none => none
  | some m => dueIf (decide (l.rx = .stuck) && decide (m.limit ≤ m.elapsed)) .recovery

/-- The receiver's event that is due next, in a fixed order of kinds. -/
def dueReceive (l : Lif) : Option RxEvent :=
  (dueCharacter l).or ((dueRun l).or ((dueGap l).or (dueRecovery l)))

/-- At most `n` of the receiver's due events are taken, one after the other. -/
def takeDue : Nat → State → State
  | 0, s => s
  | n + 1, s =>
    match dueReceive s.lif with
    | none => s
    | some e => takeDue n (e.act s)

/-- Every receiver's event that is due is taken; a character, a run, a gap and a marking period bring no more than eight between them (log 35). -/
def catchUp (s : State) : State := takeDue 8 s

/-! ## The edges of the input (R3, R5, R19) -/

/-- A rising edge, after what the levels before it have made due (log 35). -/
def spaceToMark (s : State) : State := if s.lif.input then s else rise (catchUp s)

/-- A falling edge, after what the levels before it have made due (log 35). -/
def markToSpace (s : State) : State := if s.lif.input then fall (catchUp s) else s

/-- BREAK_END: the edge that ends a break (R5). -/
def breakEnd (s : State) : State :=
  if ¬ s.lif.input ∧ (catchUp s).lif.rx = .inBreak then rise (catchUp s) else s

def execBreakEnd (s : State) : Host.Outcome State Fault Refusal := internal s breakEnd

/-- The level of the LRXD pin while the power-on reset input is held: nothing but the level follows it. -/
def inputLevel (marking : Bool) (s : State) : State := s.setLif { s.lif with input := marking }

/-- SPACE_TO_MARK_EDGE (R5, R19). -/
def spaceToMarkEdge (s : State) : State := if s.porst then inputLevel true s else spaceToMark s

def execSpaceToMarkEdge (s : State) : Host.Outcome State Fault Refusal := .next (spaceToMarkEdge s)

/-- MARK_TO_SPACE_EDGE (R3, R5). -/
def markToSpaceEdge (s : State) : State := if s.porst then inputLevel false s else markToSpace s

def execMarkToSpaceEdge (s : State) : Host.Outcome State Fault Refusal := .next (markToSpaceEdge s)

end Sys2Proof.Machine
end

