-- ==== Sys2Proof/Machine/Engine.lean ====
section
/-! DEFINITION. The Line Engine (chapter 6): attempts, the reports of the Line Interface, ending and retrying, the guard, the stuck line, LINE_RESET and the line statistics. -/

namespace Sys2Proof.Machine

/-! ## The guard, QUIET and IDLE (R94, R95) -/

/-- The guard counter loaded with the guard length, running while no frame is in progress, in character times of the active settings (R94). -/
def guardLoaded (frameInProgress : Bool) (s : State) : Guard :=
  ⟨s.active.guardLength, !frameInProgress, 0, charClocks s⟩

/-- An entry to QUIET, frame in progress as given (R94). -/
def enterQuiet (frameInProgress : Bool) (s : State) : State :=
  s.setEngine { s.engine with
    state := .quiet
    frameInProgress := frameInProgress
    guard := guardLoaded frameInProgress s }

/-- The guard counter stopped where it is. -/
def Guard.stopped (g : Guard) : Guard := { g with running := false }

/-- The reply timer stopped with its time left kept; a tick that waits at it lowers nothing (R99; log 8). -/
def ReplyTimer.stopped (t : ReplyTimer) : ReplyTimer := { t with running := false, tickWaiting := false }

/-- The engine with its reply timer stopped. -/
def stopTimer (s : State) : State := s.setEngine { s.engine with timer := s.engine.timer.stopped }

/-- An entry to IDLE: a pending settings record is applied, then the scheduler is asked for a run (R95, R161). -/
def enterIdle (s : State) : State := askRun (applyStaged (s.setEngine { s.engine with state := .idle }))

/-! ## Beginning an attempt (R96) -/

/-- The sequence bit of an exchange's first attempt: its station's next sequence, 0 for a broadcast (R27, R96). -/
def firstSequence (a : StationAddr) (s : State) : Bool :=
  match a.record with
  | none => false
  | some n => (s.station n).nextSeq

/-- The current exchange's next attempt begins: SENDING, the attempt counted, the sequence in use fixed at the first one, decided result and frame in progress cleared, the send order handed over (R96). -/
def beginAttempt (i : SlotNo) (first : Bool) (s : State) : State :=
  let x := s.slot i
  let q := if first then firstSequence x.station s else s.engine.seqInUse
  takeOrder ⟨x.station, q, x.function, x.requestLength⟩
    ((s.setSlot i { x with attempts := x.attempts + 1 }).setEngine { s.engine with
      state := .sending
      seqInUse := q
      decided := none
      frameInProgress := false })

/-! ## Ending an attempt and an exchange (R103, R105) -/

/-- The outcome formed from the final attempt result and cancel requested (the table of R105). -/
def outcomeOf (broadcast : Bool) (r : AttemptResult) (cancel : Bool) : ExOutcome :=
  match r with
  | .replyOk => if broadcast then .sent else .answered
  | .replyNegative => .refused
  | .noReply => if cancel then .cancelled else .noReply
  | .badReply => if cancel then .cancelled else .badReply
  | .collision => if cancel then .cancelled else .lineError
  | .lineStuck => if cancel then .cancelled else .lineError
  | .aborted => if cancel then .cancelled else .aborted

/-- A result after which another attempt may be made (R103). -/
def retryable (r : AttemptResult) : Bool :=
  decide (r = .noReply ∨ r = .badReply ∨ r = .collision ∨ r = .lineStuck)

/-- A retry is due for the record after an attempt that ended with `r` (R103). -/
def retryIsDue (r : AttemptResult) (x : Exchange) : Bool :=
  retryable r && decide (x.attempts < x.retryLimit + 1) && !x.cancelRequested

/-- The accepted reply that a final result hands on; none for a result that is no reply (R105). -/
def finalReply (r : AttemptResult) (s : State) : Option AcceptedReply :=
  if r = .replyOk ∨ r = .replyNegative then s.engine.reply else none

/-- The end handed to the Exchange Table (R69, R105 step 1). -/
def endOf (i : SlotNo) (r : AttemptResult) (s : State) : ExchangeEnd :=
  let x := s.slot i
  let y := finalReply r s
  { slot := i
    outcome := outcomeOf (decide (x.station = 0)) r x.cancelRequested
    result := r
    replyLength := (y.map AcceptedReply.length).getD 0
    replyFunction := y.map AcceptedReply.function
    payloadDropped := (y.map AcceptedReply.payloadDropped).getD false
    check := y.map AcceptedReply.check }

/-- The report handed to the Station Table; none for a broadcast (R22, R105 step 2). -/
def reportOf (i : SlotNo) (r : AttemptResult) (s : State) : Option EndReport :=
  let x := s.slot i
  x.station.record.map fun n =>
    { station := n
      transmitted := x.transmitted
      outcome := outcomeOf (decide (x.station = 0)) r x.cancelRequested
      attention := ((finalReply r s).map AcceptedReply.attention).getD false }

/-- The exchange in slot `i` ends with a final attempt result (R105). -/
def exchangeEnd (i : SlotNo) (r : AttemptResult) (s : State) : State :=
  (s.setHand { s.hand with exchangeEnd := some (endOf i r s), endReport := reportOf i r s }).setEngine
    { s.engine with current := none, retryDue := false, reply := none }

/-- The current exchange's attempt ends: its result is recorded, and either a retry is due or the exchange ends at once (R103). -/
def attemptEnd (r : AttemptResult) (s : State) : State :=
  match s.engine.current with
  | none => s
  | some i =>
    let s1 := (s.setSlot i { s.slot i with lastResult := some r }).setEngine { s.engine with decided := none }
    if retryIsDue r (s.slot i) then s1.setEngine { s1.engine with retryDue := true } else exchangeEnd i r s1

/-- The attempt result a decided result stands for. -/
def decidedResult : Decided → AttemptResult
  | .collision => .collision
  | .aborted => .aborted

/-! ## Taking the reports of the Line Interface -/

/-- A report at the head of those given is taken if it is of the kind the command names (log 4). -/
def withReport (s : State) (act : Report → State → Option State) : State :=
  match s.lif.reports with
  | [] => s
  | r :: rest => (act r (s.setLif { s.lif with reports := rest })).getD s

/-- The station of the current exchange is the broadcast address. -/
def currentBroadcast (i : SlotNo) (s : State) : Bool := decide ((s.slot i).station = 0)

/-- A sent report taken in SENDING (R97). -/
def sentInSending (i : SlotNo) (s : State) : State :=
  let s1 := (s.setStats { s.stats with framesSent := bump s.stats.framesSent }).setSlot i
    { s.slot i with transmitted := true }
  match s.engine.decided with
  | some d => attemptEnd (decidedResult d) (enterQuiet s1.engine.frameInProgress s1)
  | none =>
    if currentBroadcast i s then attemptEnd .replyOk (enterQuiet s1.engine.frameInProgress s1)
    else s1.setEngine { s1.engine with state := .awaiting, timer := ⟨(s.slot i).replyTimeout, true, false⟩ }

/-- The sent report is taken (R97). -/
def takeSent (s : State) : State :=
  match s.engine.state, s.engine.current with
  | .sending, some i => sentInSending i s
  | _, _ => s

/-- SENT_REPORT (R97). -/
def sentReport (s : State) : State :=
  withReport s fun r t => match r with
    | .sent => some (takeSent t)
    | _ => none

def execSentReport (s : State) : Host.Outcome State Fault Refusal := internal s sentReport

/-- The collision report is taken: COLLISION decided unless ABORTED is, the collision counted, LINE_FAULT to all hosts (R98). -/
def takeCollision (s : State) : State :=
  if s.engine.state = .sending then
    latchAll .lineFault ((s.setStats { s.stats with collisions := bump s.stats.collisions }).setEngine
      { s.engine with decided := some (s.engine.decided.getD .collision) })
  else s

/-- COLLISION_REPORT (R98). -/
def collisionReport (s : State) : State :=
  withReport s fun r t => match r with
    | .collision => some (takeCollision t)
    | _ => none

def execCollisionReport (s : State) : Host.Outcome State Fault Refusal := internal s collisionReport

/-- The cut-complete report is taken: QUIET, and the attempt ends with the decided result (R98, R110; log 32). -/
def takeCutComplete (s : State) : State :=
  if s.engine.state = .sending then
    attemptEnd (decidedResult (s.engine.decided.getD .aborted)) (enterQuiet s.engine.frameInProgress s)
  else s

/-- CUT_COMPLETE_REPORT (R98). -/
def cutCompleteReport (s : State) : State :=
  withReport s fun r t => match r with
    | .cutComplete => some (takeCutComplete t)
    | _ => none

def execCutCompleteReport (s : State) : Host.Outcome State Fault Refusal := internal s cutCompleteReport

/-- The frame-start report is taken, by the engine's state: QUIET holds the guard (R94), IDLE goes to QUIET with it held (R95), AWAITING stops the timer and goes to RECEIVING (R99); in any other state it has no effect (R95; log 17). -/
def takeFrameStart (s : State) : State :=
  match s.engine.state with
  | .quiet => s.setEngine { s.engine with frameInProgress := true, guard := s.engine.guard.stopped }
  | .idle => enterQuiet true s
  | .awaiting => s.setEngine { s.engine with
      state := .receiving, frameInProgress := true, timer := s.engine.timer.stopped }
  | _ => s

/-- FRAME_START_REPORT (R94, R95, R99). -/
def frameStartReport (s : State) : State :=
  withReport s fun r t => match r with
    | .frameStart => some (takeFrameStart t)
    | _ => none

def execFrameStartReport (s : State) : Host.Outcome State Fault Refusal := internal s frameStartReport

/-- Classes of a complete frame in RECEIVING (06 section 6.5). -/
inductive FrameClass where
  | stray | stale | accepted
  deriving DecidableEq, Repr

/-- The class of a complete frame for an exchange's station and the sequence in use (06 section 6.5). -/
def classify (f : FrameInfo) (station : StationAddr) (sequence : Bool) : FrameClass :=
  if !f.fromStation || decide (f.station ≠ station) then .stray
  else if f.sequence ≠ sequence then .stale
  else .accepted

/-- A stray or stale frame is discarded: AWAITING again, the timer resumed with its time left (R101). -/
def discardFrame (stats : Stats) (s : State) : State :=
  (s.setStats stats).setEngine { s.engine with
    state := .awaiting
    frameInProgress := false
    timer := { s.engine.timer with running := true } }

/-- What the attempt keeps of an accepted frame; the payload is dropped where there is no buffer for it (R102). -/
def keptReply (f : FrameInfo) (buffer : Option BufNo) : AcceptedReply where
  length := f.length
  function := f.function
  attention := f.attention
  check := f.check
  payloadDropped := buffer.isNone && decide (f.length ≠ 0)

/-- The result that bit 7 of a reply's function byte decides (R102). -/
def replyResult (function : Byte) : AttemptResult := if function.getLsbD 7 then .replyNegative else .replyOk

/-- An accepted frame: counted, QUIET, and either the reply copy is claimed at the arbiter or the attempt ends (R102). -/
def acceptFrame (i : SlotNo) (f : FrameInfo) (s : State) : State :=
  let b := (s.slot i).replyBuffer
  let s1 := enterQuiet false (s.setStats { s.stats with repliesAccepted := bump s.stats.repliesAccepted })
  let s2 := s1.setEngine { s1.engine with timer := s1.engine.timer.stopped, reply := some (keptReply f b) }
  match b with
  | some c =>
    if f.length = 0 then attemptEnd (replyResult f.function) s2
    else { s2.setEngine { s2.engine with copyOutstanding := true } with engineClaim := some (.copy c f.length) }
  | none => attemptEnd (replyResult f.function) s2

/-- A complete frame in RECEIVING, by its class (R101, R102). -/
def completeInReceiving (i : SlotNo) (f : FrameInfo) (s : State) : State :=
  match classify f (s.slot i).station s.engine.seqInUse with
  | .stray => discardFrame { s.stats with strayFrames := bump s.stats.strayFrames } s
  | .stale => discardFrame { s.stats with staleFrames := bump s.stats.staleFrames } s
  | .accepted => acceptFrame i f s

/-- The bad-frame reasons that also count as a cut-off reply (R100, R109). -/
def cutOffReason (r : BadReason) : Bool := decide (r = .brk ∨ r = .gap)

/-- The statistics with a cut-off reply counted if the reason is one. -/
def countCutOff (r : BadReason) (x : Stats) : Stats :=
  if cutOffReason r then { x with cutOffReplies := bump x.cutOffReplies } else x

/-- The end of a frame outside a reply wait: a stray, whose end restarts the guard in QUIET (R94, R109); no effect in STUCK (R107; log 17). -/
def strayEnd (count : Stats → Stats) (s : State) : State :=
  if s.engine.state = .stuck then s
  else
    let s1 := s.setStats (count { s.stats with strayFrames := bump s.stats.strayFrames })
    if s.engine.state = .quiet then enterQuiet false s1
    else s1.setEngine { s1.engine with frameInProgress := false }

/-- The frame-complete report is taken (R101, R102, R109). -/
def takeFrameComplete (f : FrameInfo) (s : State) : State :=
  match s.engine.state, s.engine.current with
  | .receiving, some i => completeInReceiving i f s
  | _, _ => strayEnd id s

/-- FRAME_COMPLETE_REPORT (R101, R102, R109). -/
def frameCompleteReport (s : State) : State :=
  withReport s fun r t => match r with
    | .frameComplete f => some (takeFrameComplete f t)
    | _ => none

def execFrameCompleteReport (s : State) : Host.Outcome State Fault Refusal := internal s frameCompleteReport

/-- A bad frame in RECEIVING: counted, the timer stopped, QUIET, and the attempt ends BAD_REPLY (R99, R100). -/
def badInReceiving (reason : BadReason) (s : State) : State :=
  attemptEnd .badReply (enterQuiet false (stopTimer
    (s.setStats (countCutOff reason { s.stats with badReplies := bump s.stats.badReplies }))))

/-- The bad-frame report is taken (R100, R109). -/
def takeBadFrame (reason : BadReason) (s : State) : State :=
  match s.engine.state with
  | .receiving => badInReceiving reason s
  | _ => strayEnd (countCutOff reason) s

/-- BAD_FRAME_REPORT (R100, R109). -/
def badFrameReport (s : State) : State :=
  withReport s fun r t => match r with
    | .badFrame reason => some (takeBadFrame reason t)
    | _ => none

def execBadFrameReport (s : State) : Host.Outcome State Fault Refusal := internal s badFrameReport

/-! ## The stuck line (R107, R108) -/

/-- STUCK: frame in progress clear and the guard counter stopped (R107). -/
def enterStuck (s : State) : State :=
  s.setEngine { s.engine with state := .stuck, frameInProgress := false, guard := s.engine.guard.stopped }

/-- The stuck report is taken: counted and noticed; but for SENDING the engine parks in STUCK, and an attempt that waited for its reply ends LINE_STUCK (R107). -/
def takeStuck (s : State) : State :=
  let s1 := latchAll .lineFault (s.setStats { s.stats with stuckEvents := bump s.stats.stuckEvents })
  match s.engine.state with
  | .sending => s1
  | .quiet => enterStuck s1
  | .idle => enterStuck s1
  | .awaiting => attemptEnd .lineStuck (stopTimer (enterStuck s1))
  | .receiving => attemptEnd .lineStuck (stopTimer (enterStuck s1))
  | .stuck => s1

/-- STUCK_REPORT (R107). -/
def stuckReport (s : State) : State :=
  withReport s fun r t => match r with
    | .stuck => some (takeStuck t)
    | _ => none

def execStuckReport (s : State) : Host.Outcome State Fault Refusal := internal s stuckReport

/-- The recovery report is taken: QUIET with a full guard (R108). -/
def takeRecovery (s : State) : State := if s.engine.state = .stuck then enterQuiet false s else s

/-- RECOVERY_REPORT (R108). -/
def recoveryReport (s : State) : State :=
  withReport s fun r t => match r with
    | .recovery => some (takeRecovery t)
    | _ => none

def execRecoveryReport (s : State) : Host.Outcome State Fault Refusal := internal s recoveryReport

/-! ## Timer expiry and guard run-out (R94, R99, R104) -/

/-- The reply timer has reached 0: counted, and the attempt ends NO_REPLY (R99). -/
def noReply (s : State) : State :=
  let e := s.engine
  attemptEnd .noReply (enterQuiet e.frameInProgress
    ((s.setStats { s.stats with noReplies := bump s.stats.noReplies }).setEngine { e with timer := ⟨0, false, false⟩ }))

/-- The reply timer runs: started or resumed, in AWAITING (R95, R99). -/
def timerRuns (s : State) : Bool := decide (s.engine.state = .awaiting) && s.engine.timer.running

/-- A tick's claim at the reply timer: lowered by one, and expired at 0 (R99). -/
def tickTimer (s : State) : State :=
  let e := s.engine
  if timerRuns s then
    if e.timer.tickWaiting ∨ e.timer.left ≤ 1 then noReply s
    else s.setEngine { e with timer := { e.timer with left := e.timer.left - 1 } }
  else s.setEngine { e with timer := { e.timer with tickWaiting := false } }

/-- REPLY_TIMER_EXPIRY: a tick's claim at the reply timer is taken: the one that waits at its last millisecond, which expires it; else the coming tick's, ahead of that tick's other claims (R99; log 8). -/
def replyTimerExpiry (s : State) : State :=
  if s.engine.timer.tickWaiting then tickTimer s
  else if s.taken.reply then s
  else tickTimer (noteReplyTaken s)

def execReplyTimerExpiry (s : State) : Host.Outcome State Fault Refusal := internal s replyTimerExpiry

/-- Nothing of an exchange's end waits at another block (log 6). -/
def endsTaken (s : State) : Bool :=
  s.hand.exchangeEnd.isNone && s.hand.endReport.isNone && s.hand.flush.isNone && s.hand.instEnd.isNone

/-- A retry's run-out: the next attempt begins, or a cancel taken meanwhile ends the exchange and the engine enters IDLE (R104; log 32). -/
def retryOrEnd (i : SlotNo) (s : State) : State :=
  let s1 := s.setEngine { s.engine with retryDue := false }
  if (s.slot i).cancelRequested then enterIdle (exchangeEnd i ((s.slot i).lastResult.getD .aborted) s1)
  else beginAttempt i false s1

/-- The guard has run out: with a copy outstanding, or while the last exchange's end has not been taken everywhere, the run-out waits with the counter at 0; otherwise it is taken (R94, R102; log 6). -/
def runOut (s : State) : State :=
  let s1 := s.setEngine { s.engine with guard := { s.engine.guard with left := 0, running := false } }
  if s.engine.copyOutstanding ∨ !endsTaken s then s1
  else match s.engine.retryDue, s.engine.current with
    | true, some i => retryOrEnd i s1
    | _, _ => enterIdle s1

/-- GUARD_RUN_OUT (R94). -/
def guardRunOut (s : State) : State :=
  let e := s.engine
  if e.state = .quiet ∧ !e.frameInProgress ∧ (e.guard.running ∨ e.guard.left = 0) then runOut s else s

def execGuardRunOut (s : State) : Host.Outcome State Fault Refusal := internal s guardRunOut

/-! ## LINE_RESET, READ_LINE, CLEAR_STATS (R110, R113, R114) -/

/-- LINE_RESET in SENDING, by the decided result (R110). -/
def resetSending (s : State) : State :=
  let s1 := s.setEngine { s.engine with decided := some .aborted }
  if s.engine.decided = none then cut s1 else s1

/-- LINE_RESET by the engine's state: the effect and the result (R110). -/
def lineReset (h : HostId) (s : State) : State :=
  match s.engine.state with
  | .idle => answer h .ok (enterQuiet false s)
  | .quiet => answer h .ok (enterQuiet s.engine.frameInProgress s)
  | .sending => answer h .ok (resetSending s)
  | .awaiting => answer h .ok (attemptEnd .aborted (enterQuiet false (stopTimer s)))
  | .receiving => answer h .ok (attemptEnd .aborted (enterQuiet true (stopTimer s)))
  | .stuck => answer h .notNow s

def execLineReset (h : HostId) (s : State) : Host.Outcome State Fault Refusal := served (.lineReset h) h s (lineReset h)

/-- READ_LINE (R113). -/
def readLine (h : HostId) (s : State) : State := answerWith h .ok 0 (lineCopy s) s

def execReadLine (h : HostId) (s : State) : Host.Outcome State Fault Refusal := served (.readLine h) h s (readLine h)

/-- CLEAR_STATS (R114). -/
def clearStats (h : HostId) (s : State) : State := answer h .ok (s.setStats zeroStats)

def execClearStats (h : HostId) (s : State) : Host.Outcome State Fault Refusal := served (.clearStats h) h s (clearStats h)

end Sys2Proof.Machine
end

