-- ==== Sys2Proof/Machine/Scheduler.lean ====
section
/-! DEFINITION. The Line Scheduler (chapter 5): eligibility, the choice by class, turn and age, the grant with aging. -/

namespace Sys2Proof.Machine

/-! ## Eligibility (R83) -/

/-- A station record has no hold part, or host `h` holds it. -/
def openTo (h : HostId) (x : Station) : Bool :=
  match x.hold with
  | none => true
  | some k => decide (k.holder = h)

/-- Conditions 1 to 3 of R83 for an exchange of owner `x.owner`: the hold on its station, the holds against a broadcast, the FAILED station. -/
def mayHaveLine (s : State) (x : Exchange) : Bool :=
  match x.station.record with
  | none => (List.finRange 31).all fun n => openTo x.owner (s.station n)
  | some n => openTo x.owner (s.station n) && (decide ((s.station n).state ≠ .failed) || decide (x.origin ≠ .host))

/-- A QUEUED exchange that may be granted the line (R83). -/
def eligible (s : State) (x : Exchange) : Bool := decide (x.state = .queued) && mayHaveLine s x

/-! ## The choice (R85 to R87) -/

/-- The pointer of a class (R81). -/
def Pointers.of (p : Pointers) : ExClass → HostId
  | .urgent => p.urgent
  | .normal => p.normal
  | .bulk => p.bulk

/-- The pointers with that of one class set (R86). -/
def Pointers.put (p : Pointers) (c : ExClass) (h : HostId) : Pointers :=
  match c with
  | .urgent => { p with urgent := h }
  | .normal => { p with normal := h }
  | .bulk => { p with bulk := h }

/-- The hosts in turn order from a host on: 0, 1, 2, 3, 0 (R51, R86). -/
def turns (h : HostId) : List HostId := [h, h + 1, h + 2, h + 3]

/-- Host `h`'s eligible exchanges of a class. -/
def candidates (c : ExClass) (h : HostId) (s : State) : List SlotNo :=
  tfilter (fun _ x => eligible s x && decide (x.cls = c) && decide (x.owner = h)) s.slots

/-- The exchange a host's turn in a class takes: the oldest by submission number (R87). -/
def oldestCandidate (c : ExClass) (s : State) (h : HostId) : Option SlotNo :=
  oldest (fun i => submissionAge s (s.slot i).submission) (candidates c h s)

/-- The exchange a class grants: that of the first host, from its pointer on, which has one (R86). -/
def choiceOfClass (s : State) (c : ExClass) : Option SlotNo :=
  (turns (s.pointers.of c)).findSome? (oldestCandidate c s)

/-- The class and the exchange a run chooses: the highest class with an eligible exchange (R85). -/
def choose (s : State) : Option (ExClass × SlotNo) :=
  [ExClass.urgent, ExClass.normal, ExClass.bulk].findSome? fun c => (choiceOfClass s c).map fun i => (c, i)

/-! ## The grant and aging (R88 to R91) -/

/-- A pass count increased by one and held at 15 (R89). -/
def morePasses (n : Nat) : Nat := if 15 ≤ n then 15 else n + 1

/-- An exchange that a grant passes over: its pass count rises, and at the aging limit it is promoted, unless the limit is 0 (R89, R90). -/
def aged (limit : Nat) (x : Exchange) : Exchange :=
  let y := { x with passCount := morePasses x.passCount }
  if limit ≠ 0 ∧ limit ≤ y.passCount then { y with cls := .normal, promoted := true } else y

/-- A slot's record after a grant: the one granted ACTIVE, every other eligible BULK exchange aged (R88, R89). -/
def afterGrant (s : State) (i j : SlotNo) (x : Exchange) : Exchange :=
  if j = i then { x with state := .active }
  else if eligible s x ∧ x.cls = .bulk then aged s.active.agingLimit x
  else x

/-- The grant: ACTIVE, pointer, aging, and the engine's first attempt, in one step (R88). -/
def grant (c : ExClass) (i : SlotNo) (s : State) : State :=
  beginAttempt i true
    { s with
      slots := tmap (afterGrant s i) s.slots
      pointers := s.pointers.put c ((s.slot i).owner + 1)
      engine := { s.engine with current := some i } }

/-- A run of the scheduler (R82, R85). In IDLE the run that follows an exchange's end is not taken before that end is taken everywhere (log 6). -/
def schedulerRun (s : State) : State :=
  if s.engine.state = .idle then
    if endsTaken s then
      let s1 := s.setHand { s.hand with runAsked := false }
      match choose s1 with
      | none => s1
      | some (c, i) => grant c i s1
    else s
  else s.setHand { s.hand with runAsked := false }

def execSchedulerRun (s : State) : Host.Outcome State Fault Refusal := internal s schedulerRun

end Sys2Proof.Machine
end

