-- ==== Sys2Proof/Machine/Arbiter.lean ====
section
/-! DEFINITION. The pool memory arbiter (R50 to R52): the service of the next waiting claim. -/

namespace Sys2Proof.Machine

/-! ## The engine's claim (R52, R102) -/

/-- A request byte reaches the transmitter (R11, R52). -/
def serveFetch (b : BufNo) (offset : Nat) (s : State) : State :=
  s.setLif { s.lif with sending := { s.lif.sending with nextPayload := some (s.bufferByte b offset) } }

/-- The result of the accepted reply whose copy is complete (R102; log 32). -/
def copiedResult (s : State) : AttemptResult := replyResult ((s.engine.reply.map AcceptedReply.function).getD 0)

/-- A reply's payload goes to the first bytes of its buffer; copy outstanding is cleared and the attempt ends (R52, R102). -/
def serveCopy (b : BufNo) (length : Nat) (s : State) : State :=
  let s1 := { s with mem := memWriteBytes s.mem (bufAddr b 0) (s.lif.frame.payload.toList.take length) }
  let s2 := s1.setEngine { s1.engine with copyOutstanding := false }
  attemptEnd (copiedResult s2) s2

/-! ## The claims of the ports (R47, R50) -/

/-- Host `h`'s window opens on buffer `b`: HOST(h) and not attached (R50). -/
def windowOpen (h : HostId) (b : BufNo) (s : State) : Bool :=
  decide (s.holder b = .host h) && (s.attachment b).isNone

/-- The buffer that host `h`'s select names, if its window is open on it (R50). -/
def windowBuffer (h : HostId) (s : State) : Option BufNo :=
  match bufferOf (s.port h).select with
  | none => none
  | some b => if windowOpen h b s then some b else none

/-- A refused window access (R50). -/
def refuseWindow (h : HostId) (s : State) : State := s.setPort h { s.port h with windowRefused := true }

/-- A window read at its service (R50). -/
def serveRead (h : HostId) (offset : Fin 64) (s : State) : State :=
  match windowBuffer h s with
  | some b => drive h (s.bufferByte b offset.val) s
  | none => drive h 0xFF (refuseWindow h s)

/-- A window write at its service (R50). -/
def serveWrite (h : HostId) (offset : Fin 64) (value : Byte) (s : State) : State :=
  match windowBuffer h s with
  | some b => { s with mem := memWrite s.mem (bufAddr b offset.val) value }
  | none => refuseWindow h s

/-- The clearing of an allocated buffer, and the answer of its BUF_ALLOC (R47, R172). -/
def serveClear (h : HostId) (b : BufNo) (owned free : Nat) (s : State) : State :=
  answerWith h .ok 0 [natByte b.val, natByte owned, natByte free]
    { s with mem := memWriteBytes s.mem (bufAddr b 0) (List.replicate Config.bufferBytes 0) }

/-- Clock periods for which a port's claim in service holds the memory, one for each byte it moves (R51). -/
def PortClaim.clocks : PortClaim → Nat
  | .read _ => 1
  | .write _ _ => 1
  | .clear _ _ _ => Config.bufferBytes

/-- What a port's claim does at its service. -/
def serveClaim (h : HostId) (c : PortClaim) (s : State) : State :=
  match c with
  | .read offset => serveRead h offset s
  | .write offset value => serveWrite h offset value s
  | .clear b owned free => serveClear h b owned free s

/-- What a port shows now of the answers it gives (R168, R169). -/
def Port.shown (p : Port) : Shown := ⟨p.data, p.result, p.params⟩

/-- A service of a claim of host `h` that begins now (R51, R54). -/
def beginService (h : HostId) (c : PortClaim) (p : Port) : Service := ⟨.port h p.shown, c.clocks⟩

/-- Host `h`'s claim leaves the arbiter's queue for its service, and `h` becomes the last served (R51). -/
def takeClaim (h : HostId) (c : PortClaim) (s : State) : State :=
  { s.setPort h { s.port h with claim := none } with lastServed := h, service := some (beginService h c (s.port h)) }

/-- The port whose claim comes next, from the one after the last served (R51). -/
def nextPort (s : State) : Option HostId :=
  (turns (s.lastServed + 1)).find? fun h => (s.port h).claim.isSome

/-- The next host claim is served (R51). -/
def serveHost (s : State) : State :=
  match nextPort s with
  | none => s
  | some h =>
    match (s.port h).claim with
    | none => s
    | some c => serveClaim h c (takeClaim h c s)

/-- Clock periods for which a claim of the engine holds the memory: one for a fetch, one for each byte of a copy (R51). -/
def EngineClaim.clocks : EngineClaim → Nat
  | .fetch _ _ => 1
  | .copy _ length => length

/-- The engine's claim goes into service (R51). -/
def takeEngineClaim (c : EngineClaim) (s : State) : State :=
  { s with engineClaim := none, service := some ⟨.engine, c.clocks⟩ }

/-- What a claim of the engine does at its service (R52). -/
def serveEngine (c : EngineClaim) (s : State) : State :=
  match c with
  | .fetch b offset => serveFetch b offset s
  | .copy b length => serveCopy b length s

/-- The claim in service is no claim of the engine's own, and so keeps the engine's next claim waiting. A service of the engine's own is over when its next claim is placed, at least a character later (R51; log 14). -/
def engineKeptOut (s : State) : Bool :=
  match s.service with
  | none => false
  | some v => decide (v.user ≠ .engine)

/-- The memory is free for the claim that comes next (R51; log 14). -/
def memoryFree (s : State) : Bool := if s.engineClaim.isSome then !engineKeptOut s else s.service.isNone

/-- The memory's next claim goes into service: the engine's first, then the host claims in turn (R51). -/
def serveNext (s : State) : State :=
  match s.engineClaim with
  | some c => serveEngine c (takeEngineClaim c s)
  | none => serveHost s

/-- ARBITER_SERVE: when the memory is free, its next claim is served; while a claim in service holds it, none is (R51). -/
def arbiterServe (s : State) : State := if memoryFree s then serveNext s else s

def execArbiterServe (s : State) : Host.Outcome State Fault Refusal := internal s arbiterServe

end Sys2Proof.Machine
end

