-- ==== Sys2Proof/Machine/Ports.lean ====
section
/-! DEFINITION. The port accesses that no other block takes (chapter 11): the port status read, the writes of a byte to a location, and the issue of the command that a code byte names. -/

namespace Sys2Proof.Machine

/-- PORT_STATUS_READ: the status byte is returned, then the window-refused flag is cleared (R174). -/
def portStatusRead (h : HostId) (s : State) : State :=
  let t := drive h (statusByte h s) s
  t.setPort h { t.port h with windowRefused := false }

def execPortStatusRead (h : HostId) (s : State) : Host.Outcome State Fault Refusal := served (.portStatusRead h) h s (portStatusRead h)

/-- The offset in the parameter area of a port location (R168). -/
def paramOffset (location : BitVec 7) : Option (Fin 24) :=
  let l := location.toNat
  if hp : 0x48 ≤ l ∧ l < 0x60 then some ⟨l - 0x48, by omega⟩ else none

/-- A known command is handed to the block that owns it, with the parameter area as it stands (R170, R172). -/
def issue (h : HostId) : HostCommand → State → State
  | .bufAlloc => bufAlloc h
  | .bufFree => bufFree h
  | .submit => submit h
  | .cancel => cancel h
  | .readExchange => readExchange h
  | .readStation => readStation h
  | .subscribe => subscribe h
  | .unsubscribe => unsubscribe h
  | .revive => revive h
  | .hold => hold h
  | .release => release h
  | .pollStart => pollStart h
  | .pollRetime => pollRetime h
  | .pollStop => pollStop h
  | .readPoll => readPoll h
  | .popCompletion => popCompletion h
  | .setSettings => setSettings h
  | .readSettings => readSettings h
  | .lineReset => lineReset h
  | .readLine => readLine h
  | .clearStats => clearStats h

/-- A write of a byte to the command location: the command with that code is issued; an unknown code only sets the result (R170). -/
def commandWrite (h : HostId) (code : Byte) (s : State) : State :=
  match commandOfCode code with
  | none => answer h .badCommand s
  | some c => issue h c s

/-- A write of a byte to any location of host `h`'s window: the buffer window, the command location and the notice mask as their own rules say; the buffer select and the parameter area keep the byte; any other location ignores it (R168; log 27). -/
def locationWrite (h : HostId) (location : BitVec 7) (value : Byte) (s : State) : State :=
  if hw : location.toNat < 64 then placeClaim h (.write ⟨location.toNat, hw⟩ value) s
  else if location = 0x40 then s.setPort h { s.port h with select := value }
  else if location = 0x41 then commandWrite h value s
  else if location = 0x44 then noticeMaskWrite h value s
  else match paramOffset location with
    | some k => s.setPort h { s.port h with params := tput (s.port h).params k value }
    | none => s

/-- PORT_REGISTER_WRITE (R168). -/
def portRegisterWrite (h : HostId) (location : BitVec 7) (value : Byte) (s : State) : State :=
  locationWrite h location value s

def execPortRegisterWrite (h : HostId) (location : BitVec 7) (value : Byte) (s : State) :
    Host.Outcome State Fault Refusal :=
  served (.portRegisterWrite h location value) h s (portRegisterWrite h location value)

/-- BAD_COMMAND: a write to the command location of a code that the port does not know; of a code it knows, that command (R170; log 27). -/
def badCommand (h : HostId) (code : Byte) (s : State) : State := commandWrite h code s

def execBadCommand (h : HostId) (code : Byte) (s : State) : Host.Outcome State Fault Refusal :=
  served (.badCommand h code) h s (badCommand h code)

end Sys2Proof.Machine
end

