-- ==== Sys2Proof/Machine/Resets.lean ====
section
/-! DEFINITION. Power-on reset (R177), the port reset pins (R175), and the release of a port reset in its seven parts (R176). -/

namespace Sys2Proof.Machine

/-! ## Power-on reset -/

/-- A port as power-on reset leaves it; its pin stands where the host holds it (R177; log 23). -/
def powerOnPort (p : Port) : Port :=
  { freshPort with pin := p.pin, phase := if p.pin then .held else .serving }

/-- POWER_ON_RESET: the power-on reset input is asserted and every block takes its power-on values; the input levels stand as they are (R177; log 23). -/
def powerOnReset (s : State) : State :=
  { State.reset with
    pending := s.pending
    porst := true
    ports := tmap (fun _ p => powerOnPort p) s.ports
    lif := { freshLif with input := s.lif.input } }

def execPowerOnReset (s : State) : Host.Outcome State Fault Refusal := .next (powerOnReset s)

/-- POWER_ON_RESET_RELEASE: the blocks start; an input that is spacing begins a spacing run (R5, R177). -/
def powerOnResetRelease (s : State) : State :=
  if s.porst then
    { s with porst := false, lif := { s.lif with run := if s.lif.input then none else some (newRun s) } }
  else s

def execPowerOnResetRelease (s : State) : Host.Outcome State Fault Refusal := .next (powerOnResetRelease s)

/-! ## The port reset pins (R175, R176) -/

/-- No access waits at a port, and no claim of it at the arbiter (R54, R175). -/
def Port.withdrawn (p : Port) : Port := { p with claim := none, waiting := [] }

/-- A port shows again what it showed before its access in service (R54, R175). -/
def Port.showing (v : Shown) (p : Port) : Port := { p with data := v.data, result := v.result, params := v.params }

/-- The assertion of its pin ends the accesses of host `h`: none waits, a waiting claim is withdrawn, and a claim in service, whose work at the memory is done, returns neither data nor result nor bytes, but goes on to hold the memory for the clock periods that it has left (R51, R54, R175). -/
def abandonAccess (h : HostId) (s : State) : State :=
  match s.service with
  | some ⟨.port k before, left⟩ =>
    if k = h then { s.setPort h ((s.port h).withdrawn.showing before) with service := some ⟨.abandoned, left⟩ }
    else s.setPort h (s.port h).withdrawn
  | _ => s.setPort h (s.port h).withdrawn

/-- The pin is asserted: the accesses begun end without READY; while a release is under way the edge waits for its end (R54, R175, R176; log 22). -/
def hostPortResetAssert (h : HostId) (s : State) : State :=
  let p := s.port h
  if p.pin then s
  else match p.phase with
    | .releasing _ => s.setPort h { p with pin := true, edges := p.edges + 1, waiting := [] }
    | _ =>
      let t := abandonAccess h s
      t.setPort h { t.port h with pin := true, phase := .held }

def execHostPortResetAssert (h : HostId) (s : State) : Host.Outcome State Fault Refusal :=
  .next (hostPortResetAssert h s)

/-- The pin is released: the release is handed to the blocks, the Exchange Table first; while an earlier release is under way the edge waits for its end; while the power-on reset input is held the port has its power-on values already (R176, R177; log 22). -/
def hostPortResetRelease (h : HostId) (s : State) : State :=
  let p := s.port h
  if !p.pin then s
  else match p.phase with
    | .releasing _ => s.setPort h { p with pin := false, edges := p.edges + 1 }
    | _ => s.setPort h { p with pin := false, phase := if s.porst then .serving else .releasing .xtab }

def execHostPortResetRelease (h : HostId) (s : State) : Host.Outcome State Fault Refusal :=
  .next (hostPortResetRelease h s)

/-! ## The seven parts of a release (R176) -/

/-- Host `h`'s port is at a phase. -/
def setPhase (h : HostId) (p : PortPhase) (s : State) : State := s.setPort h { s.port h with phase := p }

/-- A part of host `h`'s release is taken when it is the next one, and the part after it comes next (R176; log 4). -/
def releasePart (h : HostId) (part next : ReleasePart) (act : State → State) (s : State) : State :=
  if (s.port h).phase = .releasing part then setPhase h (.releasing next) (act s) else s

/-- XTAB_RESET_PART (R79). -/
def xtabResetPart (h : HostId) (s : State) : State := releasePart h .xtab .bpool (resetSlots h) s

def execXtabResetPart (h : HostId) (s : State) : Host.Outcome State Fault Refusal := internal s (xtabResetPart h)

/-- The attacher of a buffer is on the line and stays there: an ACTIVE or ORPHAN slot, or a poll entry whose instance is (R53). -/
def staysOnLine (s : State) (t : Option Attachment) : Bool :=
  match t with
  | none => false
  | some x =>
    match x.attacher with
    | .slot i => decide ((s.slot i).state = .active) || decide ((s.slot i).state = .orphan)
    | .entry e => entryRuns e s

/-- A buffer that host `h`'s release returns to the free list (R53). -/
def givenBack (h : HostId) (s : State) (b : BufNo) : Bool :=
  decide (s.holder b = .host h) && !staysOnLine s (s.attachment b)

/-- The pool's part of host `h`'s release, every buffer in one step (R53). -/
def resetBuffers (h : HostId) (s : State) : State :=
  { s with
    holders := tmap (fun b x =>
      if x = .host h then (if givenBack h s b then Holder.free else Holder.orphaned) else x) s.holders
    attached := tmap (fun b t => if givenBack h s b then none else t) s.attached
    freeList := s.freeList ++ (List.finRange 96).filter (givenBack h s) }

/-- BPOOL_RESET_PART (R53). -/
def bpoolResetPart (h : HostId) (s : State) : State := releasePart h .bpool .plst (resetBuffers h) s

def execBpoolResetPart (h : HostId) (s : State) : Host.Outcome State Fault Refusal := internal s (bpoolResetPart h)

/-- PLST_RESET_PART (R142). -/
def plstResetPart (h : HostId) (s : State) : State := releasePart h .plst .stab (resetEntries h) s

def execPlstResetPart (h : HostId) (s : State) : Host.Outcome State Fault Refusal := internal s (plstResetPart h)

/-- STAB_RESET_PART (R38, R126). -/
def stabResetPart (h : HostId) (s : State) : State := releasePart h .stab .cq (resetStations h) s

def execStabResetPart (h : HostId) (s : State) : Host.Outcome State Fault Refusal := internal s (stabResetPart h)

/-- CQ_RESET_PART: the queue is emptied without a pop (R150). -/
def cqResetPart (h : HostId) (s : State) : State := releasePart h .cq .nctl (fun t => t.setQueue h []) s

def execCqResetPart (h : HostId) (s : State) : Host.Outcome State Fault Refusal := internal s (cqResetPart h)

/-- NCTL_RESET_PART: latches clear, every source masked (R157). -/
def nctlResetPart (h : HostId) (s : State) : State :=
  releasePart h .nctl .port (fun t => t.setNotice h ⟨0, 0xFF⟩) s

def execNctlResetPart (h : HostId) (s : State) : Host.Outcome State Fault Refusal := internal s (nctlResetPart h)

/-- What comes at a port once its release has been taken whole: it serves, unless pin edges waited (R176; log 22). -/
def afterRelease (edges : Nat) : PortPhase :=
  if edges = 0 then .serving else if edges = 1 then .held else .releasing .xtab

/-- The port's own part: select 0xFF, status clear, parameter area zero, result OK, and the port serves again, first the accesses begun since the pin's release (R176). -/
def portResetPart (h : HostId) (s : State) : State :=
  let p := s.port h
  if p.phase = .releasing .port then
    s.setPort h { freshPort with
      data := p.data
      waiting := p.waiting
      pin := p.pin
      phase := afterRelease p.edges
      edges := p.edges - 2 }
  else s

def execPortResetPart (h : HostId) (s : State) : Host.Outcome State Fault Refusal := internal s (portResetPart h)

end Sys2Proof.Machine
end

