-- ==== Sys2Proof/Machine/TimeBase.lean ====
section
/-! DEFINITION. The Time Base (chapter 10): the tick prescaler and the tick at the blocks' millisecond timers. -/

namespace Sys2Proof.Machine

/-- Clock periods of the count that ends in the tick at a place of the cycle of five (R165). -/
def tickClocks (phase : Fin 5) : Nat := if phase.val % 2 = 0 then 14746 else 14745

/-- The prescaler at the start of the next count (R165). -/
def Prescaler.next (p : Prescaler) : Prescaler := ⟨0, p.phase + 1⟩

/-- A tick at the reply timer in AWAITING: its last one waits to be taken as the expiry, any other lowers the time left (R99; log 8). -/
def ReplyTimer.ticked (t : ReplyTimer) : ReplyTimer :=
  if !t.running then t
  else if t.left ≤ 1 then { t with tickWaiting := true }
  else { t with left := t.left - 1 }

/-- A tick at the engine, unless it has been taken there (R95, R99). -/
def tickEngine (s : State) : State :=
  if s.engine.state = .awaiting ∧ ¬ s.taken.reply then s.setEngine { s.engine with timer := s.engine.timer.ticked } else s

/-- A tick at a hold: its last one waits to be taken as the expiry (R119; log 8). -/
def Hold.ticked (k : Hold) : Hold :=
  if k.lease ≤ 1 then { k with tickWaiting := true } else { k with lease := k.lease - 1 }

/-- A tick at a poll entry: an ARMED countdown's last tick waits to be taken as the due (R132; log 8). -/
def PollEntry.ticked (x : PollEntry) : PollEntry :=
  if x.state ≠ .armed then x
  else if x.countdown ≤ 1 then { x with tickWaiting := true }
  else { x with countdown := x.countdown - 1 }

/-- A station record with a tick's claim waiting at its lease. -/
def Station.tickWaits (x : Station) : Bool := (x.hold.map Hold.tickWaiting).getD false

/-- An earlier tick's claim at some timer has not been taken. -/
def tickWaits (s : State) : Bool :=
  s.engine.timer.tickWaiting
    || (tfind (fun _ x => x.tickWaits) s.stations).isSome
    || (tfind (fun _ x => x.tickWaiting) s.entries).isSome

/-- TICK: the prescaler begins its next count, and the tick is handed to the reply timer, every lease and every ARMED countdown, but for those at which its claim has been taken ahead (R165). While an earlier tick's claim waits, it is not taken (log 8). -/
def tick (s : State) : State :=
  if tickWaits s then s
  else
    let t := tickEngine s
    { t with
      stations := tmap (fun n x => if tget s.taken.leases n then x else { x with hold := x.hold.map Hold.ticked }) t.stations
      entries := tmap (fun e x => if tget s.taken.entries e then x else x.ticked) t.entries
      prescaler := t.prescaler.next
      taken := noneTaken }

def execTick (s : State) : Host.Outcome State Fault Refusal := internal s tick

end Sys2Proof.Machine
end

