-- ==== Sys2Proof/Machine/Clock.lean ====
section
/-! DEFINITION. One clock period of the part, and the event inside the part that is due next (log 2): what a step does when no command waits. -/

namespace Sys2Proof.Machine

/-! ## One clock period (R1, R94, R165) -/

/-- The prescaler counts one clock period and stands at the end of its count until the tick is taken (R165). -/
def Prescaler.clocked (p : Prescaler) : Prescaler :=
  if p.count < tickClocks p.phase then { p with count := p.count + 1 } else p

/-- A running guard counts one clock period, and a character time at the end of each (R94). -/
def Guard.clocked (g : Guard) : Guard :=
  if g.running ∧ 0 < g.left then
    if g.perChar ≤ g.clocks + 1 then { g with left := g.left - 1, clocks := 0 } else { g with clocks := g.clocks + 1 }
  else g

/-- Clock periods from the driver's assertion to the middle of the second marking bit of the opening break (R12). -/
def markSample (d : Sending) : Nat := (Config.breakBits - 1) * d.bit + d.bit / 2

/-- One clock period of the opening break; at the middle of its second marking bit the comparator samples the input, once, and what it found is kept (R4, R12; log 18). -/
def Sending.openingClocked (input : Bool) (d : Sending) : Sending :=
  let e := { d with elapsed := d.elapsed + 1 }
  if !d.markChecked && !d.markFailed && decide (markSample d ≤ d.elapsed + 1) then
    { e with markChecked := input, markFailed := !input }
  else e

/-- What is being sent counts one clock period (R4, R12, R13). -/
def Sending.clocked (tx : TxSide) (input : Bool) (d : Sending) : Sending :=
  match tx with
  | .released => d
  | .cutting => if 0 < d.lead then { d with lead := d.lead - 1 } else { d with elapsed := d.elapsed + 1 }
  | .characters => { d with elapsed := d.elapsed + 1 }
  | .opening => d.openingClocked input

/-- A spacing run counts one clock period, as far as its stuck-line limit. -/
def SpacingRun.clocked (r : SpacingRun) : SpacingRun :=
  if r.elapsed < stuckLimit r then { r with elapsed := r.elapsed + 1 } else r

/-- The data bits with bit `k` taken from the input. -/
def withDataBit (value : Byte) (k : Nat) (input : Bool) : Byte :=
  if input then value ||| noticeBit k else value &&& ~~~noticeBit k

/-- A sample of bit `k`, 1 to 8 being the data bits and the bits above them the stop bits (R3). -/
def RxChar.sampled (k : Nat) (input : Bool) (c : RxChar) : RxChar :=
  if k = 0 then c
  else if k ≤ 8 then { c with value := withDataBit c.value (k - 1) input }
  else { c with badStop := c.badStop || !input }

/-- A character's measure counts one clock period; at the middle of each bit after a valid start bit the input is sampled (R3). -/
def RxChar.clocked (input : Bool) (c : RxChar) : RxChar :=
  let d := { c with elapsed := c.elapsed + 1 }
  if d.valid ∧ d.elapsed % d.bit = d.bit / 2 ∧ d.elapsed / d.bit ≤ 8 + d.stops then d.sampled (d.elapsed / d.bit) input else d

/-- A character with a spacing stop bit is settled without a report 11 bit times after its start edge, if the input is still spacing (R3; log 19). -/
def settles (input : Bool) (c : RxChar) : Bool :=
  c.badStop && !input && decide (Config.breakDetectBits * c.bit ≤ c.elapsed)

/-- A gap counts one clock period, as far as its limit (R17). -/
def Gap.clocked (g : Gap) : Gap := if g.elapsed < g.limit then { g with elapsed := g.elapsed + 1 } else g

/-- A marking period counts one clock period, as far as its limit (R19). -/
def MarkPeriod.clocked (m : MarkPeriod) : MarkPeriod :=
  if m.elapsed < m.limit then { m with elapsed := m.elapsed + 1 } else m

/-- The gap after a character that is settled without a report, running since the character's nominal end (R17; log 19). -/
def gapAfter (limit : Nat) (c : RxChar) : Gap := ⟨limit, c.elapsed - characterBits c.stops * c.bit, false⟩

/-- The gap after one clock period, `c` being the character under way. In ASSEMBLING a character settled without a report begins one, whose limit is given (R17). -/
def Lif.gapClocked (limit : Nat) (c : Option RxChar) (l : Lif) : Option Gap :=
  match c with
  | some x => if l.rx = .assembling ∧ settles l.input x then some (gapAfter limit x) else l.gap.map Gap.clocked
  | none => l.gap.map Gap.clocked

/-- One clock period at the Line Interface; a gap that begins in it has the limit given. -/
def Lif.clocked (limit : Nat) (l : Lif) : Lif :=
  let c := l.char.map (RxChar.clocked l.input)
  { l with
    sending := l.sending.clocked l.tx l.input
    run := l.run.map SpacingRun.clocked
    char := c.filter fun x => !settles l.input x
    gap := l.gapClocked limit c
    marking := l.marking.map MarkPeriod.clocked }

/-- A service at the arbiter counts one clock period, and with its last the memory is free and the access has ended (R51, R169). -/
def Service.clocked (v : Service) : Option Service := if v.left ≤ 1 then none else some { v with left := v.left - 1 }

/-- One clock period of the part; none passes while the power-on reset input is held (R165). -/
def clockPeriod (s : State) : State :=
  if s.porst then s
  else { s with
    prescaler := s.prescaler.clocked
    engine := if s.engine.state = .quiet then { s.engine with guard := s.engine.guard.clocked } else s.engine
    service := s.service.bind Service.clocked
    lif := s.lif.clocked (Config.gapCharacters * charClocks s) }

/-! ## The event that is due next (log 2) -/

/-- The command that takes a report. -/
def reportCommand : Report → Instr
  | .sent => .sentReport
  | .collision => .collisionReport
  | .cutComplete => .cutCompleteReport
  | .frameStart => .frameStartReport
  | .frameComplete _ => .frameCompleteReport
  | .badFrame _ => .badFrameReport
  | .stuck => .stuckReport
  | .recovery => .recoveryReport

/-- The command that takes a part of host `h`'s release. -/
def partCommand (h : HostId) : ReleasePart → Instr
  | .xtab => .xtabResetPart h
  | .bpool => .bpoolResetPart h
  | .plst => .plstResetPart h
  | .stab => .stabResetPart h
  | .cq => .cqResetPart h
  | .nctl => .nctlResetPart h
  | .port => .portResetPart h

/-- What waits between two blocks: a report, an end, an instance end, a station report, a flush, a run. -/
def dueHandOver (s : State) : Option Instr :=
  match s.lif.reports with
  | r :: _ => some (reportCommand r)
  | [] =>
    if s.hand.exchangeEnd.isSome then some .exchangeEndTaken
    else if s.hand.instEnd.isSome then some .instanceEnd
    else if s.hand.endReport.isSome then some .exchangeEndReport
    else if s.hand.flush.isSome then some .stationFlush
    else dueIf s.hand.runAsked .schedulerRun

/-- The next part of a release under way at host `h`'s port. -/
def duePart (s : State) (h : HostId) : Option Instr :=
  match (s.port h).phase with
  | .releasing p => some (partCommand h p)
  | _ => none

/-- A claim waits at the arbiter, and the memory is free for it (R51). -/
def claimWaits (s : State) : Bool := (s.engineClaim.isSome || (nextPort s).isSome) && memoryFree s

/-- A tick's claim that waits at a timer (R99, R119, R132). -/
def dueTimer (s : State) : Option Instr :=
  if s.engine.timer.tickWaiting then some .replyTimerExpiry
  else match tfind (fun _ x => x.tickWaits) s.stations with
    | some n => some (.leaseExpiry n)
    | none => (tfind (fun _ x => x.tickWaiting) s.entries).map .pollDue

/-- The prescaler stands at the end of its count. -/
def tickDue (s : State) : Bool := decide (tickClocks s.prescaler.phase ≤ s.prescaler.count)

/-- The guard has run out and its run-out can be taken (R94). -/
def guardDue (s : State) : Bool :=
  decide (s.engine.state = .quiet) && !s.engine.frameInProgress && decide (s.engine.guard.left = 0)
    && !s.engine.copyOutstanding && endsTaken s

/-- The character being sent can be followed, or found wrong, at its nominal end: the payload byte of the next one is in place (R11, R12; log 16). -/
def endsNow (d : Sending) : Bool :=
  !echoRight d || decide (d.index + 1 = frameChars d) || (characterValue d (d.index + 1)).isSome

/-- The transmit side's next event (R10 to R13). -/
def dueTransmit (l : Lif) : Option Instr :=
  let d := l.sending
  match l.tx with
  | .released => none
  | .opening =>
    if (!d.echoBreak && decide (Config.breakSpacingBits * d.bit ≤ d.elapsed)) || d.markFailed then some .echoCollision
    else dueIf (decide (Config.breakBits * d.bit ≤ d.elapsed)) (if comparatorFails l then .echoCollision else .openingBreakEnd)
  | .characters =>
    if d.elapsed < d.charBits * d.bit then none
    else if d.index < frameChars d then dueIf (endsNow d) .characterSent
    else dueIf (frameWhole d) .frameSent
  | .cutting => dueIf (decide (d.lead = 0) && decide (Config.breakBits * d.bit ≤ d.elapsed)) .cutBreakEnd

/-- The event inside the part that is due next, in a fixed order of kinds; none while the power-on reset input is held (log 2). -/
def dueEvent (s : State) : Option Instr :=
  if s.porst then none
  else
    ((((((((dueHandOver s).or ((List.finRange 4).findSome? (duePart s))).or
      (dueIf (claimWaits s) .arbiterServe)).or (dueTimer s)).or (dueIf (tickDue s) .tick)).or
      (dueIf (guardDue s) .guardRunOut)).or ((dueReceive s.lif).map RxEvent.command)).or
      (dueTransmit s.lif))

end Sys2Proof.Machine
end

