-- ==== Sys2Proof/Machine/Dispatch.lean ====
section
/-! DEFINITION. The meaning of every command of the opcode table, one arm each. -/

namespace Sys2Proof.Machine

def exec (i : Instr) (s : State) : Host.Outcome State Fault Refusal :=
  match i with
  | .bufAlloc h => Sys2Proof.Machine.execBufAlloc h s
  | .bufFree h => Sys2Proof.Machine.execBufFree h s
  | .submit h => Sys2Proof.Machine.execSubmit h s
  | .cancel h => Sys2Proof.Machine.execCancel h s
  | .readExchange h => Sys2Proof.Machine.execReadExchange h s
  | .readStation h => Sys2Proof.Machine.execReadStation h s
  | .subscribe h => Sys2Proof.Machine.execSubscribe h s
  | .unsubscribe h => Sys2Proof.Machine.execUnsubscribe h s
  | .revive h => Sys2Proof.Machine.execRevive h s
  | .hold h => Sys2Proof.Machine.execHold h s
  | .release h => Sys2Proof.Machine.execRelease h s
  | .pollStart h => Sys2Proof.Machine.execPollStart h s
  | .pollRetime h => Sys2Proof.Machine.execPollRetime h s
  | .pollStop h => Sys2Proof.Machine.execPollStop h s
  | .readPoll h => Sys2Proof.Machine.execReadPoll h s
  | .popCompletion h => Sys2Proof.Machine.execPopCompletion h s
  | .setSettings h => Sys2Proof.Machine.execSetSettings h s
  | .readSettings h => Sys2Proof.Machine.execReadSettings h s
  | .lineReset h => Sys2Proof.Machine.execLineReset h s
  | .readLine h => Sys2Proof.Machine.execReadLine h s
  | .clearStats h => Sys2Proof.Machine.execClearStats h s
  | .badCommand h code => Sys2Proof.Machine.execBadCommand h code s
  | .noticeCodeRead h => Sys2Proof.Machine.execNoticeCodeRead h s
  | .noticeMaskWrite h value => Sys2Proof.Machine.execNoticeMaskWrite h value s
  | .portStatusRead h => Sys2Proof.Machine.execPortStatusRead h s
  | .portRegisterWrite h location value => Sys2Proof.Machine.execPortRegisterWrite h location value s
  | .windowRead h offset => Sys2Proof.Machine.execWindowRead h offset s
  | .windowWrite h offset value => Sys2Proof.Machine.execWindowWrite h offset value s
  | .arbiterServe => Sys2Proof.Machine.execArbiterServe s
  | .powerOnReset => Sys2Proof.Machine.execPowerOnReset s
  | .hostPortResetAssert h => Sys2Proof.Machine.execHostPortResetAssert h s
  | .hostPortResetRelease h => Sys2Proof.Machine.execHostPortResetRelease h s
  | .xtabResetPart h => Sys2Proof.Machine.execXtabResetPart h s
  | .bpoolResetPart h => Sys2Proof.Machine.execBpoolResetPart h s
  | .plstResetPart h => Sys2Proof.Machine.execPlstResetPart h s
  | .stabResetPart h => Sys2Proof.Machine.execStabResetPart h s
  | .cqResetPart h => Sys2Proof.Machine.execCqResetPart h s
  | .nctlResetPart h => Sys2Proof.Machine.execNctlResetPart h s
  | .portResetPart h => Sys2Proof.Machine.execPortResetPart h s
  | .tick => Sys2Proof.Machine.execTick s
  | .replyTimerExpiry => Sys2Proof.Machine.execReplyTimerExpiry s
  | .leaseExpiry n => Sys2Proof.Machine.execLeaseExpiry n s
  | .pollDue e => Sys2Proof.Machine.execPollDue e s
  | .guardRunOut => Sys2Proof.Machine.execGuardRunOut s
  | .schedulerRun => Sys2Proof.Machine.execSchedulerRun s
  | .openingBreakEnd => Sys2Proof.Machine.execOpeningBreakEnd s
  | .characterSent => Sys2Proof.Machine.execCharacterSent s
  | .echoCollision => Sys2Proof.Machine.execEchoCollision s
  | .frameSent => Sys2Proof.Machine.execFrameSent s
  | .cutBreakEnd => Sys2Proof.Machine.execCutBreakEnd s
  | .breakDetected => Sys2Proof.Machine.execBreakDetected s
  | .breakEnd => Sys2Proof.Machine.execBreakEnd s
  | .characterTaken value => Sys2Proof.Machine.execCharacterTaken value s
  | .framingError => Sys2Proof.Machine.execFramingError s
  | .gapLimit => Sys2Proof.Machine.execGapLimit s
  | .stuckDetected => Sys2Proof.Machine.execStuckDetected s
  | .lineRecovered => Sys2Proof.Machine.execLineRecovered s
  | .sentReport => Sys2Proof.Machine.execSentReport s
  | .collisionReport => Sys2Proof.Machine.execCollisionReport s
  | .cutCompleteReport => Sys2Proof.Machine.execCutCompleteReport s
  | .frameStartReport => Sys2Proof.Machine.execFrameStartReport s
  | .frameCompleteReport => Sys2Proof.Machine.execFrameCompleteReport s
  | .badFrameReport => Sys2Proof.Machine.execBadFrameReport s
  | .stuckReport => Sys2Proof.Machine.execStuckReport s
  | .recoveryReport => Sys2Proof.Machine.execRecoveryReport s
  | .exchangeEndTaken => Sys2Proof.Machine.execExchangeEndTaken s
  | .exchangeEndReport => Sys2Proof.Machine.execExchangeEndReport s
  | .stationFlush => Sys2Proof.Machine.execStationFlush s
  | .instanceEnd => Sys2Proof.Machine.execInstanceEnd s
  | .halfBitSample => Sys2Proof.Machine.execHalfBitSample s
  | .markToSpaceEdge => Sys2Proof.Machine.execMarkToSpaceEdge s
  | .spaceToMarkEdge => Sys2Proof.Machine.execSpaceToMarkEdge s
  | .powerOnResetRelease => Sys2Proof.Machine.execPowerOnResetRelease s

end Sys2Proof.Machine
end

