-- ==== Sys2Proof/Machine/Idle.lean ====
section
/-! DEFINITION. What the part does of itself when no command waits: its next due event, an access that waited at a port and can be served now, or one clock period (log 2). -/

namespace Sys2Proof.Machine

/-- Host `h`'s port has ended what went before an access that waits at it (R169, R176). -/
def portFree (h : HostId) (s : State) : Bool :=
  !s.porst && decide ((s.port h).phase = .serving) && (s.port h).claim.isNone && !portInService h s

/-- The lowest port with a waiting access that can be served, and that access (R169, R176; log 36). -/
def dueAccess (s : State) : Option (HostId × Instr) :=
  (List.finRange 4).findSome? fun h =>
    if portFree h s then ((s.port h).waiting.head?).map fun c => (h, c) else none

/-- The port of host `h` with its waiting accesses replaced. -/
def setWaiting (h : HostId) (w : List Instr) (s : State) : State := s.setPort h { s.port h with waiting := w }

/-- The oldest access that waits at host `h`'s port, `c`, is served, and those behind it wait on (R169). -/
def serveWaiting (h : HostId) (c : Instr) (s : State) : Host.Outcome State Fault Refusal :=
  match exec c (setWaiting h [] s) with
  | .next t => .next (setWaiting h (s.port h).waiting.tail t)
  | o => o

/-- What the part does of itself (log 2). -/
def idleStep (s : State) : Host.Outcome State Fault Refusal :=
  match dueEvent s with
  | some i => exec i s
  | none =>
    match dueAccess s with
    | some (h, c) => serveWaiting h c s
    | none => .next (clockPeriod s)

end Sys2Proof.Machine
end

