-- ==== Sys2Proof/WellFormed.lean ====
section
/-! DEFINITION. Which commands are well formed: those whose operands name an access of the row's own kind (log 27). The types of the other operands admit no ill-formed value. -/

namespace Sys2Proof

/-- A port location whose write is a PORT_REGISTER_WRITE: neither in the window, nor the command location, nor the notice mask (R168). -/
def plainLocation (location : BitVec 7) : Bool :=
  decide (0x40 ≤ location.toNat) && decide (location ≠ 0x41) && decide (location ≠ 0x44)

/-- A command is well formed. -/
def Instr.wellFormed : Instr → Bool
  | .badCommand _ code => !Machine.knownCommand code
  | .portRegisterWrite _ location _ => plainLocation location
  | .bufAlloc _ => true
  | .bufFree _ => true
  | .submit _ => true
  | .cancel _ => true
  | .readExchange _ => true
  | .readStation _ => true
  | .subscribe _ => true
  | .unsubscribe _ => true
  | .revive _ => true
  | .hold _ => true
  | .release _ => true
  | .pollStart _ => true
  | .pollRetime _ => true
  | .pollStop _ => true
  | .readPoll _ => true
  | .popCompletion _ => true
  | .setSettings _ => true
  | .readSettings _ => true
  | .lineReset _ => true
  | .readLine _ => true
  | .clearStats _ => true
  | .noticeCodeRead _ => true
  | .noticeMaskWrite _ _ => true
  | .portStatusRead _ => true
  | .windowRead _ _ => true
  | .windowWrite _ _ _ => true
  | .arbiterServe => true
  | .powerOnReset => true
  | .hostPortResetAssert _ => true
  | .hostPortResetRelease _ => true
  | .xtabResetPart _ => true
  | .bpoolResetPart _ => true
  | .plstResetPart _ => true
  | .stabResetPart _ => true
  | .cqResetPart _ => true
  | .nctlResetPart _ => true
  | .portResetPart _ => true
  | .tick => true
  | .replyTimerExpiry => true
  | .leaseExpiry _ => true
  | .pollDue _ => true
  | .guardRunOut => true
  | .schedulerRun => true
  | .openingBreakEnd => true
  | .characterSent => true
  | .echoCollision => true
  | .frameSent => true
  | .cutBreakEnd => true
  | .breakDetected => true
  | .breakEnd => true
  | .characterTaken _ => true
  | .framingError => true
  | .gapLimit => true
  | .stuckDetected => true
  | .lineRecovered => true
  | .sentReport => true
  | .collisionReport => true
  | .cutCompleteReport => true
  | .frameStartReport => true
  | .frameCompleteReport => true
  | .badFrameReport => true
  | .stuckReport => true
  | .recoveryReport => true
  | .exchangeEndTaken => true
  | .exchangeEndReport => true
  | .stationFlush => true
  | .instanceEnd => true
  | .halfBitSample => true
  | .markToSpaceEdge => true
  | .spaceToMarkEdge => true
  | .powerOnResetRelease => true

end Sys2Proof
end

