-- ==== Sys2Proof/Safety.lean ====
section
/-! DEFINITION. What the claims about the part speak of: outcomes, parts of the state that an event leaves alone, and the invariants of the blocks. -/

namespace Sys2Proof.Machine

/-- A step that goes on. -/
def goesOn (o : Host.Outcome State Fault Refusal) : Prop := ∃ t, o = .next t

/-- Every byte of the buffer memory reads in `t` as in `s`. -/
def sameBytes (s t : State) : Prop := ∀ a, memRead t.mem a = memRead s.mem a

/-- Every host port but `h`'s stands in `t` as in `s`. -/
def otherPortsSame (h : HostId) (s t : State) : Prop := ∀ k, k ≠ h → t.port k = s.port k

/-- The buffer pool (R40, R41): the free list names each FREE buffer once and no other; a FREE buffer is not attached; an ORPHANED one is. -/
def PoolOk (s : State) : Prop :=
  s.freeList.Nodup
  ∧ (∀ b, b ∈ s.freeList ↔ s.holder b = .free)
  ∧ (∀ b, s.holder b = .free → s.attachment b = none)
  ∧ (∀ b, s.holder b = .orphaned → s.attachment b ≠ none)

/-- The completion queues (R144): none holds more than 16 records. -/
def QueuesOk (s : State) : Prop := ∀ h, (s.queue h).length ≤ Config.queueDepth

/-- A hold part (R115): lease remaining and kept leases are not 0, no host stands in it twice. -/
def HoldOk (k : Hold) : Prop :=
  k.lease ≠ 0 ∧ (∀ w ∈ k.waiters, w.lease ≠ 0) ∧ (k.holder :: k.waiters.map Waiter.host).Nodup

/-- The hold parts (R115): each is in order, and no host holds more than 4 stations. -/
def HoldsOk (s : State) : Prop :=
  (∀ n k, (s.station n).hold = some k → HoldOk k) ∧ ∀ h, heldCount h s ≤ Config.holdLimit

/-- The settings (R159): every field of the active and of the pending record is in its range. -/
def SettingsOk (s : State) : Prop :=
  settingsInRange s.active = true ∧ ∀ x, s.staged = some x → settingsInRange x = true

/-- The end reports of a frame of the part's own that the engine has not taken (R98). -/
def endReports (s : State) : Nat := s.lif.reports.countP fun r => decide (r = .sent ∨ r = .cutComplete)

/-- The Line Engine's record (R93, R98): the current exchange is present exactly in the states that R93 names; the engine is in SENDING exactly while its frame, or the end report of it, is outstanding; and the copy claim waits exactly while a copy is outstanding. -/
def EngineOk (s : State) : Prop :=
  (match s.engine.state with
    | .quiet => s.engine.current.isSome = (s.engine.retryDue || s.engine.copyOutstanding)
    | .stuck => s.engine.current.isSome = (s.engine.retryDue || s.engine.copyOutstanding)
    | .idle => s.engine.current = none ∧ s.engine.retryDue = false ∧ s.engine.copyOutstanding = false
    | _ => s.engine.current.isSome ∧ s.engine.retryDue = false ∧ s.engine.copyOutstanding = false)
  ∧ (endReports s + (if s.lif.tx = .released then 0 else 1)) = (if s.engine.state = .sending then 1 else 0)
  ∧ (s.engine.copyOutstanding = true ↔ ∃ b n, s.engineClaim = some (.copy b n))

/-- An exchange that is on the line: ACTIVE or ORPHAN. -/
def onLine (x : Exchange) : Prop := x.state = .active ∨ x.state = .orphan

/-- One exchange at most is on the line (R27): it is the engine's current exchange, or the one whose end the Exchange Table has still to take. -/
def OneOnLine (s : State) : Prop :=
  (∀ i, onLine (s.slot i) ↔ s.engine.current = some i ∨ ∃ e, s.hand.exchangeEnd = some e ∧ e.slot = i)
  ∧ (s.engine.current = none ∨ s.hand.exchangeEnd = none)

/-- Attempts (R103): none is made before the grant, never more than the retry limit plus one, and a retry that is due stays below that. -/
def AttemptsOk (s : State) : Prop :=
  (∀ i, (s.slot i).retryLimit ≤ 7 ∧ (s.slot i).attempts ≤ (s.slot i).retryLimit + 1)
  ∧ (∀ i, (s.slot i).state = .queued → (s.slot i).attempts = 0)
  ∧ (∀ i, s.engine.current = some i → s.engine.retryDue = true → (s.slot i).attempts ≤ (s.slot i).retryLimit)

/-! ## Who gives a command -/

/-- The host whose port access a command is; `none` for an event. -/
def portAccess : Instr → Option HostId
  | .bufAlloc h | .bufFree h | .submit h | .cancel h | .readExchange h | .readStation h | .subscribe h
  | .unsubscribe h | .revive h | .hold h | .release h | .pollStart h | .pollRetime h | .pollStop h | .readPoll h
  | .popCompletion h | .setSettings h | .readSettings h | .lineReset h | .readLine h | .clearStats h
  | .badCommand h _ | .noticeCodeRead h | .noticeMaskWrite h _ | .portStatusRead h | .portRegisterWrite h _ _
  | .windowRead h _ | .windowWrite h _ _ => some h
  | .arbiterServe | .powerOnReset | .hostPortResetAssert _ | .hostPortResetRelease _ | .xtabResetPart _
  | .bpoolResetPart _ | .plstResetPart _ | .stabResetPart _ | .cqResetPart _ | .nctlResetPart _
  | .portResetPart _ | .tick | .replyTimerExpiry | .leaseExpiry _ | .pollDue _ | .guardRunOut | .schedulerRun
  | .openingBreakEnd | .characterSent | .echoCollision | .frameSent | .cutBreakEnd | .breakDetected | .breakEnd
  | .characterTaken _ | .framingError | .gapLimit | .stuckDetected | .lineRecovered | .sentReport
  | .collisionReport | .cutCompleteReport | .frameStartReport | .frameCompleteReport | .badFrameReport
  | .stuckReport | .recoveryReport | .exchangeEndTaken | .exchangeEndReport | .stationFlush | .instanceEnd
  | .halfBitSample | .markToSpaceEdge | .spaceToMarkEdge | .powerOnResetRelease => none

/-- The command codes of R172, each with the row that is host `h`'s issue of its command. -/
def commandCodes (h : HostId) : List (Byte × Instr) :=
  [(0x10, .bufAlloc h), (0x11, .bufFree h), (0x20, .submit h), (0x21, .cancel h), (0x22, .readExchange h),
    (0x30, .readStation h), (0x31, .subscribe h), (0x32, .unsubscribe h), (0x33, .revive h), (0x38, .hold h),
    (0x39, .release h), (0x40, .pollStart h), (0x41, .pollRetime h), (0x42, .pollStop h), (0x43, .readPoll h),
    (0x50, .popCompletion h), (0x60, .setSettings h), (0x61, .readSettings h), (0x70, .lineReset h), (0x71, .readLine h),
    (0x72, .clearStats h)]

/-- The row a write at the command location stands for: the command of its code, or an unknown code's BAD_COMMAND (R170). -/
def codeRow (h : HostId) (code : Byte) : Instr := ((commandCodes h).lookup code).getD (.badCommand h code)

/-- The row whose access a command spells; a write of a byte to a location with a row of its own spells that row (R168, R170; log 27). -/
def rowOf : Instr → Instr
  | .badCommand h code => codeRow h code
  | .portRegisterWrite h location value =>
    if hw : location.toNat < 64 then .windowWrite h ⟨location.toNat, hw⟩ value
    else if location = 0x41 then codeRow h value
    else if location = 0x44 then .noticeMaskWrite h value
    else .portRegisterWrite h location value
  | c => c

/-- The change of an input pin: one of the commands that act while the power-on reset input is held (R177). -/
def pinEvent (c : Instr) : Prop :=
  c = .powerOnReset ∨ c = .powerOnResetRelease ∨ c = .markToSpaceEdge ∨ c = .spaceToMarkEdge
  ∨ (∃ h, c = .hostPortResetAssert h) ∨ ∃ h, c = .hostPortResetRelease h

/-! ## Orders that the rules give -/

/-- The memory is free, no engine claim waits, and host `h`'s claim is the first found in the order 0, 1, 2, 3, 0 from the port after the one served last (R51). -/
def servedNext (h : HostId) (s : State) : Prop :=
  s.service = none ∧ s.engineClaim = none ∧ (s.port h).claim.isSome
  ∧ ∃ d : Fin 4, h = s.lastServed + 1 + d ∧ ∀ e : Fin 4, e < d → (s.port (s.lastServed + 1 + e)).claim = none

/-- The classes in the order of R85, the highest first. -/
def classRank : ExClass → Nat
  | .urgent => 0
  | .normal => 1
  | .bulk => 2

/-- How many turns after a pointer host `h` has its turn (R86). -/
def turnDistance (pointer h : HostId) : Nat := (h - pointer).val

/-- The state `t` is `s` with station `n`'s hold handed over (R118): with `u` the state in which the holder has departed, either every waiter stands at its limit, each is told HOLD_EXPIRED and the hold part is gone; or the first waiter below its limit holds the station with its kept lease and is told HOLD_GRANTED, and only the waiters before it are told HOLD_EXPIRED. Either way a scheduler run is asked for. -/
def HandedOver (n : StationNo) (s t : State) : Prop :=
  ∀ k, (s.station n).hold = some k →
    let u := s.setStation n { s.station n with hold := none }
    ((∀ v ∈ k.waiters, Config.holdLimit ≤ heldCount v.host u) →
      t = askRun (latchEach .holdExpired (k.waiters.map Waiter.host) u))
    ∧ (∀ skipped w rest, k.waiters = skipped ++ w :: rest →
        (∀ v ∈ skipped, Config.holdLimit ≤ heldCount v.host u) → heldCount w.host u < Config.holdLimit →
        t = askRun (latch w.host .holdGranted
          ((latchEach .holdExpired (skipped.map Waiter.host) u).setStation n
            { s.station n with hold := some ⟨w.host, w.lease, rest, false⟩ })))

/-- The state `t` is `s` after the stations of a list that host `h` holds have been handed over one after the other, those it does not hold passed by (R118, R126). -/
def HandedInTurn (h : HostId) : List StationNo → State → State → Prop
  | [], s, t => t = s
  | n :: rest, s, t => ∃ u,
      ((∃ k, (s.station n).hold = some k ∧ k.holder = h) → HandedOver n s u)
      ∧ ((∀ k, (s.station n).hold = some k → k.holder ≠ h) → u = s)
      ∧ HandedInTurn h rest u t

/-! ## Buffers and checks as the commands' arguments name them -/

/-- A buffer field's byte stands for a buffer, or 0xFF for none (R42, R168). -/
def namesBuffer (f : Byte) (b : Option BufNo) : Prop :=
  match b with
  | none => f = 0xFF
  | some k => f.toNat = k.val

/-- A buffer field names no buffer, or one of host `h` (R42). -/
def fieldOwned (h : HostId) (f : Byte) (s : State) : Prop := f = 0xFF ∨ ∃ b : BufNo, f.toNat = b.val ∧ s.holder b = .host h

/-- A buffer field names no buffer that is attached (R42). -/
def fieldFree (f : Byte) (s : State) : Prop := ∀ b : BufNo, f.toNat = b.val → s.attachment b = none

/-- The first of a list of checks that fails has result `r`; `none` if all pass. -/
def firstFailure : List (Prop × ResultCode) → Option ResultCode → Prop
  | [], r => r = none
  | c :: cs, r => (c.1 → firstFailure cs r) ∧ (¬ c.1 → r = some c.2)

/-- The checks of SUBMIT in the order of R63; for the third, a reply field with any value but 0xFF names a buffer (log 38). -/
def submitChecks (h : HostId) (s : State) : List (Prop × ResultCode) :=
  [((arg h 2 s).toNat ≤ 2 ∧ (arg h 0 s).toNat ≤ 31 ∧ (arg h 4 s).toNat ≤ 64
      ∧ ((arg h 8 s).toNat ≤ 7 ∨ arg h 8 s = 0xFF), .badParam),
   (arg h 4 s = 0 ∨ arg h 3 s ≠ 0xFF, .badParam),
   (arg h 0 s = 0 → arg h 5 s = 0xFF, .badParam),
   (fieldOwned h (arg h 3 s) s, .badBuffer), (fieldOwned h (arg h 5 s) s, .badBuffer),
   (fieldFree (arg h 3 s) s, .bufferBusy), (fieldFree (arg h 5 s) s, .bufferBusy),
   (∀ n : StationNo, (arg h 0 s).toNat = n.val + 1 → (s.station n).state ≠ .failed, .stationDown),
   (occupancy h s < s.active.exchangeQuota, .quota),
   (∃ i, (s.slot i).state = .free, .noSlot)]

/-- The checks of POLL_START in the order of R130. -/
def pollStartChecks (h : HostId) (s : State) : List (Prop × ResultCode) :=
  [(1 ≤ (arg h 0 s).toNat ∧ (arg h 0 s).toNat ≤ 31 ∧ (arg h 2 s).toNat ≤ 2 ∧ (arg h 4 s).toNat ≤ 64
      ∧ arg16 h 6 7 s ≠ 0 ∧ (arg h 10 s).toNat ≤ 1, .badParam),
   (arg h 4 s = 0 ∨ arg h 3 s ≠ 0xFF, .badParam),
   (fieldOwned h (arg h 3 s) s, .badBuffer), (fieldOwned h (arg h 5 s) s, .badBuffer),
   (fieldFree (arg h 3 s) s, .bufferBusy), (fieldFree (arg h 5 s) s, .bufferBusy),
   (∃ e, (s.entry e).state = .unused, .noEntry)]

/-- Slot `i` is the lowest-numbered FREE one (R57). -/
def lowestFree (i : SlotNo) (s : State) : Prop :=
  (s.slot i).state = .free ∧ ∀ j, j < i → (s.slot j).state ≠ .free

/-- The state `t` is `s` with a record placed in slot `i`: it has taken the submission number, the counter has moved on, and a scheduler run is asked for (R59, R64, R66, R82). -/
def Placed (i : SlotNo) (x : Exchange) (s t : State) : Prop :=
  t = askRun { s.setSlot i { x with submission := s.submission } with submission := s.submission + 1 }

/-- The state `t` is `s` with the buffers of two fields attached to `a` in their roles, and no other attachment changed (R41, R43). -/
def Lent (a : Attacher) (request reply : Option BufNo) (s t : State) : Prop :=
  { t with attached := s.attached } = s
  ∧ ∀ b, t.attachment b =
      if request = some b ∨ reply = some b then some ⟨a, decide (request = some b), decide (reply = some b)⟩
      else s.attachment b

/-- The state `t` is `s` with the buffers attached to `a` unlent: an ORPHANED one goes to the tail of the free list, the lower number first, any other keeps its holder (R44, R55). -/
def Unlent (a : Attacher) (s t : State) : Prop :=
  { t with attached := s.attached, holders := s.holders, freeList := s.freeList } = s
  ∧ (∀ b, (∃ x, s.attachment b = some x ∧ x.attacher = a) →
      t.attachment b = none ∧ t.holder b = (if s.holder b = .orphaned then .free else s.holder b))
  ∧ (∀ b, (∀ x, s.attachment b = some x → x.attacher ≠ a) →
      t.attachment b = s.attachment b ∧ t.holder b = s.holder b)
  ∧ ∃ back : List BufNo, t.freeList = s.freeList ++ back ∧ back.Pairwise (· < ·)
      ∧ ∀ b, b ∈ back ↔ s.holder b = .orphaned ∧ ∃ x, s.attachment b = some x ∧ x.attacher = a

/-- The state `t` is `s` with the HOST-origin exchange of slot `i` entered into DONE, its end fields as `x` has them (R60, R70, R71): the finish number is taken, its buffers are unlent, and it is posted with COMPLETION latched, or waits in the backlog when its owner's queue is full. -/
def EnteredDone (i : SlotNo) (x : Exchange) (s t : State) : Prop :=
  ∃ u, Unlent (.slot i) { s with finish := s.finish + 1 } u
    ∧ ((s.queue x.owner).length < 16 →
        t = (latch x.owner .completion (u.setQueue x.owner (s.queue x.owner ++
          [⟨x.tag.getD 0, i, x.station, x.function, x.outcome.getD .aborted, x.attempts, x.replyLength,
            x.replyFunction, x.payloadDropped, x.promoted⟩]))).setSlot i freeExchange)
    ∧ (16 ≤ (s.queue x.owner).length →
        t = u.setSlot i { x with state := .done, finish := some s.finish })

/-- The Exchange Table refuses an instance of host `h`: its quota or the slots (R66). -/
def noRoom (h : HostId) (s : State) : Prop :=
  s.active.exchangeQuota ≤ occupancy h s ∨ ∀ i, (s.slot i).state ≠ .free

/-- The state `t` is `s` after entry `e`, whose record is `x`, has fallen due (R133, R66): inside the release of its owner only the countdown is loaded; with an instance present, or with no room at the table, a miss is counted as well; otherwise the instance stands in the lowest FREE slot and in the entry. -/
def FellDue (e : EntryNo) (s t : State) : Prop :=
  let x := s.entry e
  let missed := if x.missed < 255 then x.missed + 1 else 255
  let inRelease := (s.port x.owner).phase = .releasing .bpool ∨ (s.port x.owner).phase = .releasing .plst
  (inRelease → t = s.setEntry e { x with countdown := x.period })
  ∧ (¬ inRelease → (x.inst ≠ none ∨ noRoom x.owner s) →
      t = s.setEntry e { x with missed := missed, countdown := x.period })
  ∧ (¬ inRelease → x.inst = none → ¬ noRoom x.owner s →
      ∃ i u, lowestFree i s
        ∧ Placed i { freeExchange with
            state := .queued, owner := x.owner, origin := .poll e, station := x.station, function := x.function
            cls := x.cls, requestBuffer := x.requestBuffer, requestLength := x.requestLength
            replyBuffer := x.snapshotBuffer
            retryLimit := s.active.defaultRetries, replyTimeout := s.active.defaultTimeout } s u
        ∧ t = u.setEntry e { x with inst := some i, countdown := x.period })

/-! ## What the Line Engine does in several rules -/

/-- The outcome of the table of R105, for a station 1–31 or a broadcast. -/
def OutcomeByTable (broadcast : Bool) (r : AttemptResult) (cancel : Bool) (o : ExOutcome) : Prop :=
  match r, cancel with
  | .replyOk, _ => o = if broadcast then .sent else .answered
  | .replyNegative, _ => o = .refused
  | _, true => o = .cancelled
  | .noReply, false => o = .noReply
  | .badReply, false => o = .badReply
  | .aborted, false => o = .aborted
  | .collision, false => o = .lineError
  | .lineStuck, false => o = .lineError

/-- The state `t` is `s` after the exchange of slot `i` has ended with a final attempt result (R105): the end is handed to the Exchange Table and, for a station 1–31, the report to the Station Table, with the accepted reply's fields for REPLY_OK and REPLY_NEGATIVE alone; the engine has no current exchange. -/
def ExchangeEnded (i : SlotNo) (r : AttemptResult) (s t : State) : Prop :=
  ∃ o, OutcomeByTable (decide ((s.slot i).station = 0)) r (s.slot i).cancelRequested o
    ∧ ∃ e : ExchangeEnd, e.slot = i ∧ e.outcome = o ∧ e.result = r
    ∧ (∀ y, s.engine.reply = some y → r = .replyOk ∨ r = .replyNegative →
        e.replyLength = y.length ∧ e.replyFunction = some y.function ∧ e.payloadDropped = y.payloadDropped
        ∧ e.check = some y.check)
    ∧ (s.engine.reply = none ∨ (r ≠ .replyOk ∧ r ≠ .replyNegative) →
        e.replyLength = 0 ∧ e.replyFunction = none ∧ e.payloadDropped = false ∧ e.check = none)
    ∧ ∃ rep : Option EndReport,
      ((s.slot i).station = 0 → rep = none)
      ∧ (∀ n : StationNo, (s.slot i).station = n.address →
          ∃ a, rep = some ⟨n, (s.slot i).transmitted, o, a⟩
            ∧ ∀ y, s.engine.reply = some y → r = .replyOk ∨ r = .replyNegative → a = y.attention)
      ∧ t = (s.setHand { s.hand with exchangeEnd := some e, endReport := rep }).setEngine
          { s.engine with current := none, retryDue := false, reply := none }

/-- The state `t` is `s` after the attempt of the exchange in slot `i` has ended with result `r` (R103): the result is recorded; a retry is due for NO_REPLY, BAD_REPLY, COLLISION and LINE_STUCK while attempts are left and no cancel is requested; otherwise the exchange ends at once. -/
def AttemptEnded (i : SlotNo) (r : AttemptResult) (s t : State) : Prop :=
  let u := (s.setSlot i { s.slot i with lastResult := some r }).setEngine { s.engine with decided := none }
  let again := (r = .noReply ∨ r = .badReply ∨ r = .collision ∨ r = .lineStuck)
    ∧ (s.slot i).attempts < (s.slot i).retryLimit + 1 ∧ (s.slot i).cancelRequested = false
  (again → t = u.setEngine { u.engine with retryDue := true }) ∧ (¬ again → ExchangeEnded i r u t)

/-- The state `t` is `s` with the engine in QUIET, frame in progress as given, and the guard loaded in full in character times of the active settings, running while no frame is in progress (R94). -/
def InQuiet (frame : Bool) (s t : State) : Prop :=
  t = s.setEngine { s.engine with
    state := .quiet, frameInProgress := frame
    guard := ⟨s.active.guardLength, !frame, 0, charClocks s⟩ }

/-- The state `t` is `s` with the engine entered into IDLE: a pending settings record is applied and noticed, then a scheduler run is asked for (R95, R161). -/
def InIdle (s t : State) : Prop :=
  (s.staged = none → t = askRun (s.setEngine { s.engine with state := .idle }))
  ∧ ∀ x, s.staged = some x →
      t = askRun (latchAll .settings { s.setEngine { s.engine with state := .idle } with active := x, staged := none })

/-- The state `t` is `s` with the next attempt of slot `i`'s exchange begun with a sequence bit (R10, R96): counted, decided result and frame in progress clear, the engine SENDING; a RELEASED transmitter has taken the send order into OPENING and ECHO, at the active rate. The comparator begins clear, but for a spacing run that had already reached 11 bit times (R10, R12; log 18), and no received character under way is an echo (R12); the sending's other fields are at rest until the address byte begins (log 29). -/
def AttemptBegun (i : SlotNo) (q : Bool) (s t : State) : Prop :=
  let u := (s.setSlot i { s.slot i with attempts := (s.slot i).attempts + 1 }).setEngine
    { s.engine with state := .sending, seqInUse := q, decided := none, frameInProgress := false }
  (s.lif.tx ≠ .released → t = u)
  ∧ (s.lif.tx = .released →
      t.lif.tx = .opening ∧ t.lif.rx = .echo ∧ t.lif.gap = none ∧ t.lif.marking = none
      ∧ t.lif.sending.order = ⟨(s.slot i).station, q, (s.slot i).function, (s.slot i).requestLength⟩
      ∧ t.lif.sending.elapsed = 0 ∧ t.lif.sending.bit = bitClocks s ∧ t.lif.sending.charBits = charBits s
      ∧ t.lif.sending.nextPayload = none ∧ t.lif.sending.echo = none
      ∧ (t.lif.sending.echoBreak = true ↔ ∃ r, s.lif.run = some r ∧ r.reached = true)
      ∧ t.lif.sending.markChecked = false ∧ t.lif.sending.markFailed = false
      ∧ t.lif.sending.index = 0 ∧ t.lif.sending.value = 0 ∧ t.lif.sending.check = 0
      ∧ t.lif.sending.lead = 0 ∧ t.lif.sending.leadLevel = true
      ∧ t.lif.char = s.lif.char.map (fun c => { c with fresh := false })
      ∧ t.lif.frame = s.lif.frame ∧ t.lif.run = s.lif.run ∧ t.lif.input = s.lif.input ∧ t.lif.reports = s.lif.reports
      ∧ { t with lif := s.lif } = u)

/-- No end, report, flush or instance end of the last exchange waits at another block (log 6). -/
def allTaken (s : State) : Prop :=
  s.hand.exchangeEnd = none ∧ s.hand.endReport = none ∧ s.hand.flush = none ∧ s.hand.instEnd = none

/-! ## The choice of the Line Scheduler -/

/-- An exchange may be granted the line (R83). -/
def Grantable (s : State) (x : Exchange) : Prop :=
  x.state = .queued
  ∧ (∀ n : StationNo, x.station = n.address →
      (∀ k, (s.station n).hold = some k → k.holder = x.owner) ∧ ((s.station n).state = .failed → x.origin ≠ .host))
  ∧ (x.station = 0 → ∀ (n : StationNo) (k : Hold), (s.station n).hold = some k → k.holder = x.owner)

/-- Exchange `x` goes before `y` (R85, R86, R87): the higher class; in one class the owner whose turn comes first from the class's pointer; of one owner the greater submission age. -/
def GoesBefore (s : State) (x y : Exchange) : Prop :=
  classRank x.cls < classRank y.cls
  ∨ (x.cls = y.cls
    ∧ (turnDistance (s.pointers.of x.cls) x.owner < turnDistance (s.pointers.of x.cls) y.owner
      ∨ (x.owner = y.owner ∧ (s.submission - y.submission).toNat < (s.submission - x.submission).toNat)))

/-- The state `t` is `s` with slot `i` granted, but for the attempt that begins in the same step (R86, R88 to R91): ACTIVE and the engine's current exchange; the pointer of its class at the host after its owner; every other grantable BULK exchange aged, and promoted at the aging limit unless that is 0. -/
def Granted (i : SlotNo) (s t : State) : Prop :=
  t.slot i = { s.slot i with state := .active }
  ∧ (∀ j, j ≠ i → ¬ (Grantable s (s.slot j) ∧ (s.slot j).cls = .bulk) → t.slot j = s.slot j)
  ∧ (∀ j, j ≠ i → Grantable s (s.slot j) → (s.slot j).cls = .bulk →
      let p := if (s.slot j).passCount < 15 then (s.slot j).passCount + 1 else 15
      t.slot j = if s.active.agingLimit ≠ 0 ∧ s.active.agingLimit ≤ p then
          { s.slot j with passCount := p, cls := .normal, promoted := true }
        else { s.slot j with passCount := p })
  ∧ t.pointers = (match (s.slot i).cls with
      | .urgent => { s.pointers with urgent := (s.slot i).owner + 1 }
      | .normal => { s.pointers with normal := (s.slot i).owner + 1 }
      | .bulk => { s.pointers with bulk := (s.slot i).owner + 1 })
  ∧ t.engine = { s.engine with current := some i }
  ∧ { t with slots := s.slots, pointers := s.pointers, engine := s.engine } = s

/-! ## The Line Interface -/

/-- The state `t` is `s` with a cut begun (R13): CUTTING, the break to start at the next bit boundary at the active rate, and any fetch of the frame that waits given up (log 15); the reports given as told. -/
def CutBegun (reports : List Report) (s t : State) : Prop :=
  t.lif = { s.lif with
    tx := .cutting, reports := reports
    sending := { s.lif.sending with
      lead := (s.lif.sending.bit - s.lif.sending.elapsed % s.lif.sending.bit) % s.lif.sending.bit
      leadLevel := txData s, elapsed := 0, bit := bitClocks s, nextPayload := none } }
  ∧ ((∃ b o, s.engineClaim = some (.fetch b o)) → t.engineClaim = none)
  ∧ ((∀ b o, s.engineClaim ≠ some (.fetch b o)) → t.engineClaim = s.engineClaim)
  ∧ { t with lif := s.lif, engineClaim := s.engineClaim } = s

/-- A spacing run that begins now, at the active rate (R1, R5). -/
def freshRun (s : State) : SpacingRun := ⟨bitClocks s, charBits s, 0, false⟩

/-- The state `t` is `s` with the driver released and a report given (R11, R13): RELEASED and HUNT, with a new spacing run if the input is spacing. -/
def DriverReleased (r : Report) (s t : State) : Prop :=
  t = s.setLif { s.lif with
    tx := .released, rx := .hunt, sending := idleSending, char := none, gap := none
    run := if s.lif.input then none else some (freshRun s)
    reports := s.lif.reports ++ [r] }

/-- A claim of host `h` goes into service for some clock periods, the port showing what it does (R51, R54). -/
def serviceOf (h : HostId) (clocks : Nat) (p : Port) : Service := ⟨.port h ⟨p.data, p.result, p.params⟩, clocks⟩

/-- A claim of host `h`'s access is in service at the arbiter (R51). -/
def AccessInService (h : HostId) (s : State) : Prop := ∃ v n, s.service = some ⟨.port h v, n⟩

/-- A claim that keeps the engine's next one waiting is in service: one of a port, or of an access abandoned since (R51; log 14). -/
def EngineKeptOut (s : State) : Prop := ∃ v, s.service = some v ∧ v.user ≠ .engine

/-- No measure of the receiver has run its time (R3, R5, R17 to R19): the half-bit sample, the middle of the last stop bit, the input's marking after a spacing stop bit, 11 bit times of spacing, the stuck limit of 4 character times, the gap limit, the marking period. -/
def LineSettled (l : Lif) : Prop :=
  (∀ c, l.char = some c →
    (c.valid = false → c.elapsed < c.bit / 2)
    ∧ (c.valid = true → c.badStop = true → l.input = false)
    ∧ (c.valid = true → c.badStop = false → c.elapsed < (8 + c.stops) * c.bit + c.bit / 2))
  ∧ (∀ r, l.run = some r →
    (r.reached = false → l.rx ≠ .stuck → l.rx ≠ .inBreak → r.elapsed < 11 * r.bit)
    ∧ (l.tx = .released → l.rx = .hunt ∨ l.rx = .inBreak ∨ l.rx = .assembling → r.elapsed < 4 * r.charBits * r.bit))
  ∧ (∀ g, l.gap = some g → l.rx = .assembling → g.passed = false → g.elapsed < g.limit)
  ∧ (∀ m, l.marking = some m → l.rx = .stuck → m.elapsed < m.limit)

/-- The state `t` is `s` after every receiver's event that is due has been taken, one after the other (log 35). -/
inductive CaughtUp : State → State → Prop where
  | settled (s : State) : LineSettled s.lif → CaughtUp s s
  | next (e : RxEvent) (s u t : State) : dueReceive s.lif = some e → exec e.command s = .next u → CaughtUp u t → CaughtUp s t

/-- The character `d` is `c` one clock period later (R3): at the middle of a bit after a valid start bit the input is sampled, into the data bit or against the stop bit that stands there. -/
def CharClocked (input : Bool) (c d : RxChar) : Prop :=
  let middle (j : Nat) := c.valid = true ∧ c.elapsed + 1 = j * c.bit + c.bit / 2
  d.elapsed = c.elapsed + 1 ∧ d.bit = c.bit ∧ d.stops = c.stops ∧ d.valid = c.valid ∧ d.fresh = c.fresh
  ∧ (∀ j, 1 ≤ j → j ≤ 8 → middle j →
      (∀ k, d.value.getLsbD k = if k + 1 = j then input else c.value.getLsbD k) ∧ d.badStop = c.badStop)
  ∧ (∀ j, 9 ≤ j → j ≤ 8 + c.stops → middle j → d.value = c.value ∧ d.badStop = (c.badStop || !input))
  ∧ ((∀ j, 1 ≤ j → j ≤ 8 + c.stops → ¬ middle j) → d.value = c.value ∧ d.badStop = c.badStop)

/-- What is being sent one clock period later (R4, R12, R13): the opening break is sampled once, at the middle of its second marking bit. -/
def SendingClocked (tx : TxSide) (input : Bool) (d e : Sending) : Prop :=
  match tx with
  | .released => e = d
  | .characters => e = { d with elapsed := d.elapsed + 1 }
  | .cutting =>
    (d.lead = 0 → e = { d with elapsed := d.elapsed + 1 }) ∧ (0 < d.lead → e = { d with lead := d.lead - 1 })
  | .opening =>
    (d.markChecked = false → d.markFailed = false → 17 * d.bit + d.bit / 2 ≤ d.elapsed + 1 →
      e = { d with elapsed := d.elapsed + 1, markChecked := input, markFailed := !input })
    ∧ (d.markChecked = true ∨ d.markFailed = true ∨ d.elapsed + 1 < 17 * d.bit + d.bit / 2 →
      e = { d with elapsed := d.elapsed + 1 })

/-- The Line Interface one clock period later, in ASSEMBLING a gap that begins having a limit as given (R1, R3 to R5, R12, R13, R17 to R19): every measure counts, and a character with a spacing stop bit whose input is still spacing 11 bit times after its start edge is settled without a report, its gap running since its nominal end. -/
def LineClocked (limit : Nat) (l m : Lif) : Prop :=
  m.tx = l.tx ∧ m.rx = l.rx ∧ m.frame = l.frame ∧ m.input = l.input ∧ m.reports = l.reports
  ∧ SendingClocked l.tx l.input l.sending m.sending
  ∧ (l.run = none → m.run = none)
  ∧ (∀ r, l.run = some r → m.run = some (if r.elapsed < 4 * r.charBits * r.bit then { r with elapsed := r.elapsed + 1 } else r))
  ∧ (l.marking = none → m.marking = none)
  ∧ (∀ p, l.marking = some p → m.marking = some (if p.elapsed < p.limit then { p with elapsed := p.elapsed + 1 } else p))
  ∧ (l.char = none → m.char = none)
  ∧ (∀ c, l.char = some c → ∃ d, CharClocked l.input c d
      ∧ (d.badStop = true ∧ l.input = false ∧ 11 * d.bit ≤ d.elapsed → m.char = none
        ∧ (l.rx = .assembling → m.gap = some ⟨limit, d.elapsed - (9 + d.stops) * d.bit, false⟩))
      ∧ (d.badStop = false ∨ l.input = true ∨ d.elapsed < 11 * d.bit → m.char = some d))
  ∧ (l.rx ≠ .assembling ∨ l.char = none ∨ m.char ≠ none →
      m.gap = l.gap.map fun g => if g.elapsed < g.limit then { g with elapsed := g.elapsed + 1 } else g)

/-- The time of an event of the line, whichever state it is due in (R1 to R5, R11 to R13, R17 to R19): what has been counted when the idle part comes to take it. -/
def TimeHasRun (l : Lif) : Instr → Prop
  | .halfBitSample => ∃ c, l.char = some c ∧ c.valid = false ∧ c.bit / 2 ≤ c.elapsed
  | .characterTaken v => ∃ c, l.char = some c ∧ c.valid = true ∧ c.badStop = false ∧ c.value = v
      ∧ (8 + c.stops) * c.bit + c.bit / 2 ≤ c.elapsed
  | .framingError => ∃ c, l.char = some c ∧ c.valid = true ∧ c.badStop = true ∧ l.input = true
  | .breakDetected => (∃ r, l.run = some r ∧ r.reached = false ∧ 11 * r.bit ≤ r.elapsed) ∧ l.rx ≠ .stuck ∧ l.rx ≠ .inBreak
  | .stuckDetected => (∃ r, l.run = some r ∧ 4 * r.charBits * r.bit ≤ r.elapsed) ∧ l.tx = .released
      ∧ (l.rx = .hunt ∨ l.rx = .inBreak ∨ l.rx = .assembling)
  | .gapLimit => l.rx = .assembling ∧ ∃ g, l.gap = some g ∧ g.passed = false ∧ g.limit ≤ g.elapsed
  | .lineRecovered => l.rx = .stuck ∧ ∃ m, l.marking = some m ∧ m.limit ≤ m.elapsed
  | .echoCollision => l.tx = .opening ∧ ((l.sending.echoBreak = false ∧ 16 * l.sending.bit ≤ l.sending.elapsed)
      ∨ l.sending.markFailed = true ∨ 18 * l.sending.bit ≤ l.sending.elapsed)
  | .openingBreakEnd => l.tx = .opening ∧ 18 * l.sending.bit ≤ l.sending.elapsed
  | .characterSent => l.tx = .characters ∧ l.sending.charBits * l.sending.bit ≤ l.sending.elapsed
  | .frameSent => l.tx = .characters ∧ l.sending.charBits * l.sending.bit ≤ l.sending.elapsed
  | .cutBreakEnd => l.tx = .cutting ∧ l.sending.lead = 0 ∧ 18 * l.sending.bit ≤ l.sending.elapsed
  | _ => True

/-- No time of the transmitter has run out (R4, R11 to R13): 16 bit times of an opening break that has not come back, its failed sample, 18 bit times of an opening or cut-off break, a character time of a character that can be followed. -/
def TransmitSettled (l : Lif) : Prop :=
  let d := l.sending
  (l.tx = .opening → d.elapsed < 18 * d.bit ∧ d.markFailed = false ∧ (d.echoBreak = false → d.elapsed < 16 * d.bit))
  ∧ (l.tx = .cutting → 0 < d.lead ∨ d.elapsed < 18 * d.bit)
  ∧ (l.tx = .characters → d.charBits * d.bit ≤ d.elapsed →
      (d.index < d.order.length + 5 → d.echo = some (.good d.value) ∧ d.nextPayload = none
        ∧ 2 ≤ d.index ∧ d.index < d.order.length + 2)
      ∧ d.index ≠ d.order.length + 5)

/-- The state `t` is `s` with the frame being assembled failed, one bad-frame report given (R16). -/
def FrameFailed (reason : BadReason) (s t : State) : Prop :=
  t = s.setLif { s.lif with rx := .hunt, gap := none, reports := s.lif.reports ++ [.badFrame reason] }

/-- The state `t` is `s` with the next character of the frame begun (R2, R6, R8, R10, R11): index, value and running check as given, and, from the length character on, the fetch of the payload byte that the character after it carries. -/
def CharacterBegun (index : Nat) (value : Byte) (check : Word16) (next : Option Byte) (s t : State) : Prop :=
  let u := s.setLif { s.lif with
    tx := .characters
    char := s.lif.char.map fun c => { c with fresh := false }
    sending := { s.lif.sending with
      index := index, value := value, check := check, nextPayload := next, echo := none
      bit := bitClocks s, charBits := charBits s, elapsed := 0 } }
  (∀ i b, 2 ≤ index → index - 2 < s.lif.sending.order.length → s.engine.current = some i →
    (s.slot i).requestBuffer = some b → t = { u with engineClaim := some (.fetch b (index - 2)) })
  ∧ (index < 2 ∨ s.lif.sending.order.length ≤ index - 2 → t = u)

/-- The frame buffer `g` is `f` with one more byte taken (R14). -/
def ByteStored (b : Byte) (f g : FrameBuffer) : Prop :=
  g.count = f.count + 1 ∧ g.check = checkByte f.check b
  ∧ g.address = (if f.count = 0 then b else f.address)
  ∧ g.function = (if f.count = 1 then b else f.function)
  ∧ g.length = (if f.count = 2 then b else f.length)
  ∧ (f.length.toNat ≤ 64 → ∀ k : Fin 64, tget g.payload k =
      if f.count = k.val + 3 ∧ k.val < f.length.toNat then b else tget f.payload k)
  ∧ (3 ≤ f.count → g.checkHigh = (if f.count = f.length.toNat + 3 then b else f.checkHigh))
  ∧ (3 ≤ f.count → f.length.toNat ≤ 64 → g.checkLow = (if f.length.toNat + 3 < f.count then b else f.checkLow))

end Sys2Proof.Machine
end

