-- ==== Sys2Proof/Certificates/Slice0/Obligations.lean ====
section
/-! DEFINITION. The statements for the provers. "Answers next" means that the command goes on; hypotheses speak of the state and the operands alone. -/

section

open Sys2Proof Sys2Proof.Machine

/-! ## The step and the whole machine -/

/-- A step takes the command at the front of the queue and runs its meaning on the state with the queue's rest. -/
def Obligations.StepRunsTheFrontCommand : Prop :=
  ∀ (c : Instr) (rest : List Instr) (s : State),
    step { s with pending := c :: rest } = exec c { s with pending := rest }

/-- With no command waiting, a step is the event inside the part that is due next; with none due, an access that waited at a port and can be served now, the lowest port first; and with none of these one clock period. An event of the line is due only when its time has been counted (R3 to R5, R11 to R13, R17 to R19), a tick at the end of the prescaler's count (R165), the guard's run-out at 0 (R94), and a service at the arbiter while no claim in service keeps the next one waiting (R51; log 14). That a step is this, and the order among what is due, is the model's own choice (logs 2 and 36); that the stuck limit is reached with the count of 40 or 44 bit times is log 21. -/
def Obligations.IdleStepIsTheDueEventOrAClockPeriod : Prop :=
  (∀ s : State, s.pending = [] →
    let free (h : HostId) := s.porst = false ∧ (s.port h).phase = .serving ∧ (s.port h).claim = none ∧ ¬ AccessInService h s
    (∀ c, dueEvent s = some c → step s = exec c s)
    ∧ (∀ (h : HostId) c rest, dueEvent s = none → free h → (s.port h).waiting = c :: rest →
        (∀ k, k < h → ¬ free k ∨ (s.port k).waiting = []) →
        ∃ t, exec c (s.setPort h { s.port h with waiting := [] }) = .next t
          ∧ step s = .next (t.setPort h { t.port h with waiting := rest }))
    ∧ (dueEvent s = none → (∀ h, ¬ free h ∨ (s.port h).waiting = []) → step s = .next (clockPeriod s)))
  ∧ (∀ (s : State) (c : Instr), dueEvent s = some c →
    s.porst = false ∧ TimeHasRun s.lif c
    ∧ (c = .tick → (if s.prescaler.phase.val % 2 = 0 then 14746 else 14745) ≤ s.prescaler.count)
    ∧ (c = .guardRunOut → s.engine.state = .quiet ∧ s.engine.guard.left = 0)
    ∧ (c = .arbiterServe → (s.engineClaim ≠ none ∧ ¬ EngineKeptOut s)
        ∨ (s.engineClaim = none ∧ s.service = none ∧ ∃ h, (s.port h).claim ≠ none)))

/-- No command stops the part, and none touches the queue of waiting commands (log 31). An access of a host that is begun while its port's reset pin or the power-on reset input is held changes nothing (R169, R175, R177); one begun while an earlier access or the port's release is still to end waits behind it, and nothing else changes (R169, R176; log 36). No event inside the part happens while the power-on reset input is held (R177); that an event then leaves the state as it is, is the model's choice (log 4). -/
def Obligations.CommandsGoOnAndUnservedChangeNothing : Prop :=
  (∀ (c : Instr) (s : State), ∃ t, exec c s = .next t ∧ t.pending = s.pending)
  ∧ ((∀ (c : Instr) (h : HostId) (s : State), portAccess c = some h → portServes h s = false →
      let refused := s.porst = true ∨ (s.port h).pin = true ∨ (s.port h).phase = .held
      (refused → exec c s = .next s)
      ∧ (¬ refused → exec c s = .next (s.setPort h { s.port h with waiting := (s.port h).waiting ++ [c] })))
    ∧ (∀ (c : Instr) (s : State), portAccess c = none → ¬ pinEvent c → s.porst = true → exec c s = .next s))

/-- The power-on values that the manual states, block by block (R20, R21, R39, R40, R45, R51, R57, R81, R93, R112, R115, R129, R144, R151, R159, R165, R177), at the moment the power-on reset input has been released. Which moment State.reset is, is the model's choice (log 1); so are the values at rest of the measures of the line and of what the model keeps between two claims, which this does not speak of, but for the entries' mark that no tick waits (log 8). The fields of a FREE slot and of an UNUSED entry are spelled as the last columns of the tables of R58 and R129 give them. -/
def Obligations.ResetLeavesThePowerOnValues : Prop :=
  (∀ h, ((State.reset).port h).select = 0xFF ∧ ((State.reset).port h).windowRefused = false
    ∧ (∀ k, arg h k State.reset = 0) ∧ ((State.reset).port h).result = .ok
    ∧ (State.reset).notice h = ⟨0x00, 0xFF⟩ ∧ noticeOutput h State.reset = false
    ∧ (State.reset).queue h = [] ∧ ownedCount h State.reset = 0 ∧ occupancy h State.reset = 0
    ∧ portServes h State.reset = true)
  ∧ freeExchange = {
      state := .free, owner := 0, origin := .host, tag := none, station := 0, function := 0, cls := .normal
      promoted := false, requestBuffer := none, requestLength := 0, replyBuffer := none, retryLimit := 0
      replyTimeout := 20, attempts := 0, passCount := 0, submission := 0, cancelRequested := false
      transmitted := false, lastResult := none, outcome := none, finish := none, replyLength := 0
      replyFunction := none, payloadDropped := false }
  ∧ (∀ i, (State.reset).slot i = freeExchange) ∧ (State.reset).submission = 0 ∧ (State.reset).finish = 0
  ∧ (∀ n, ((State.reset).station n).state = .unknown ∧ ((State.reset).station n).failures = 0
    ∧ ((State.reset).station n).nextSeq = false ∧ ((State.reset).station n).attention = false
    ∧ (∀ h, tget ((State.reset).station n).subscribers h = false ∧ tget ((State.reset).station n).unread h = false)
    ∧ ((State.reset).station n).hold = none)
  ∧ (∀ b, (State.reset).holder b = .free ∧ (State.reset).attachment b = none
    ∧ ∀ o, (State.reset).bufferByte b o = 0x00)
  ∧ (State.reset).freeList = List.finRange 96 ∧ (State.reset).lastServed = 3
  ∧ unusedEntry = {
      state := .unused, owner := 0, station := 0, function := 0, cls := .normal, requestBuffer := none
      requestLength := 0, snapshotBuffer := none, period := 0, countdown := 0, inst := none, changeDetect := false
      lastCheck := none, lastLength := none, lastOutcome := none, missed := 0, unreadChange := false
      tickWaiting := false }
  ∧ (∀ e, (State.reset).entry e = unusedEntry)
  ∧ (State.reset).engine.state = .quiet ∧ (State.reset).engine.current = none
  ∧ (State.reset).engine.seqInUse = false ∧ (State.reset).engine.retryDue = false ∧ (State.reset).engine.decided = none
  ∧ (State.reset).engine.timer.left = 0 ∧ (State.reset).engine.timer.running = false
  ∧ (State.reset).engine.guard.left = 2 ∧ (State.reset).engine.guard.running = true
  ∧ (State.reset).engine.frameInProgress = false ∧ (State.reset).engine.copyOutstanding = false
  ∧ (State.reset).stats = ⟨0, 0, 0, 0, 0, 0, 0, 0, 0⟩ ∧ (State.reset).pointers = ⟨0, 0, 0⟩
  ∧ (State.reset).lif.tx = .released ∧ (State.reset).lif.rx = .hunt ∧ (State.reset).lif.frame.count = 0
  ∧ (State.reset).lif.frame.address = 0x00 ∧ (State.reset).lif.frame.function = 0x00 ∧ (State.reset).lif.frame.length = 0x00
  ∧ (∀ k, tget (State.reset).lif.frame.payload k = 0x00)
  ∧ (State.reset).lif.frame.checkHigh = 0x00 ∧ (State.reset).lif.frame.checkLow = 0x00
  ∧ (State.reset).lif.reports = []
  ∧ driverEnable State.reset = false ∧ txData State.reset = true
  ∧ (State.reset).active = ⟨4, 1, 2, 20, 2, 3, 8, 8, 8, 24⟩ ∧ (State.reset).staged = none
  ∧ (State.reset).prescaler = ⟨0, 0⟩

/-- Every invariant stated below holds at reset. -/
def Obligations.InvariantsHoldAtReset : Prop :=
  Memory.wf State.reset.mem ∧ PoolOk State.reset ∧ QueuesOk State.reset ∧ HoldsOk State.reset
  ∧ SettingsOk State.reset ∧ EngineOk State.reset ∧ OneOnLine State.reset ∧ AttemptsOk State.reset

/-! ## Invariants that every step keeps -/

/-- Every step keeps no more than 16 records in any completion queue (R144), and every field of the settings in its range (R159); and it keeps the canonical form in which the model lists the bytes of the buffer memory, which is the model's own choice of form (log 24, DESIGN CHOICE) and no rule of the manual. -/
def Obligations.StorageStaysInRange : Prop :=
  (∀ s t : State, Memory.wf s.mem → step s = .next t → Memory.wf t.mem)
  ∧ (∀ s t : State, QueuesOk s → step s = .next t → QueuesOk t)
  ∧ (∀ s t : State, SettingsOk s → step s = .next t → SettingsOk t)

/-- Every step keeps the buffer pool consistent: the free list names each FREE buffer once and no other, a FREE buffer is not attached, an ORPHANED one is (R40, R41). -/
def Obligations.PoolStaysConsistent : Prop :=
  ∀ s t : State, PoolOk s → step s = .next t → PoolOk t

/-- Every step keeps the hold parts in order: leases above 0, no host twice at one station, no host above 4 holds (R115, R119). -/
def Obligations.HoldsStayInOrder : Prop :=
  ∀ s t : State, HoldsOk s → step s = .next t → HoldsOk t

/-- Every step keeps the Line Engine's record as R93 describes it, and the engine in SENDING exactly while the end of its frame is still to be taken (R98). -/
def Obligations.EngineRecordStaysInOrder : Prop :=
  ∀ s t : State, EngineOk s → step s = .next t → EngineOk t

/-- At most one exchange is ACTIVE or ORPHAN at any time, and it is the engine's current one or the one whose end is still to be taken (R68); an exchange's attempts made never exceed its retry limit plus one, and so never 8 (R103). -/
def Obligations.OneExchangeWithBoundedAttempts : Prop :=
  (∀ s t : State, EngineOk s → OneOnLine s → step s = .next t → OneOnLine t)
  ∧ (∀ s t : State, EngineOk s → OneOnLine s → SettingsOk s → AttemptsOk s → step s = .next t → AttemptsOk t)

/-! ## What only some events may change -/

/-- A buffer byte changes only at the arbiter's service and at power-on reset (R39). -/
def Obligations.BufferBytesChangeOnlyAtTheArbiter : Prop :=
  ∀ (c : Instr) (s t : State), c ≠ .arbiterServe → c ≠ .powerOnReset → exec c s = .next t → sameBytes s t

/-- The settings change only by SET_SETTINGS and at the engine's entry to IDLE (R161), the grant pointers only at a scheduler run (R81), a station's next sequence only by an exchange-end report (R27, R28), the submission counter only by a placement (R59); and each by power-on reset. A write of a command's code at the command location is that command (R170; log 27). -/
def Obligations.SharedRecordsChangeOnlyByTheirOwnEvents : Prop :=
  ∀ (c : Instr) (s t : State), c ≠ .powerOnReset → exec c s = .next t →
    ((∀ h, rowOf c ≠ .setSettings h) → c ≠ .guardRunOut → t.active = s.active ∧ t.staged = s.staged)
    ∧ (c ≠ .schedulerRun → t.pointers = s.pointers)
    ∧ (c ≠ .exchangeEndReport → ∀ n, (t.station n).nextSeq = (s.station n).nextSeq)
    ∧ ((∀ h, rowOf c ≠ .submit h) → (∀ h, rowOf c ≠ .pollStart h) → (∀ h, rowOf c ≠ .pollRetime h) → (∀ e, c ≠ .pollDue e) →
        t.submission = s.submission)

/-- An access of one host leaves the port of every other host as it was: select, flags, parameter area, result and claim (R168). -/
def Obligations.PortsAreKeptApart : Prop :=
  ∀ (c : Instr) (h : HostId) (s t : State), portAccess c = some h → exec c s = .next t → otherPortsSame h s t

/-! ## The port -/

/-- What a command's answer writes is what the host reads back: the result code at 0x42, by the numbers of R171, and the returned bytes in the parameter area, every other byte of the area as it was (R170). The exchange, station, entry, completion and line copies hold, offset by offset, what the table of R173 gives, with its codes, and READ_SETTINGS the settings record and the pending-present byte of R172; a 16-bit quantity stands high byte first, and an absent number is 0xFF (R168). -/
def Obligations.AnswersAndCopiesHaveTheirPlaces : Prop :=
  let hi (w : Word16) : Byte := BitVec.ofNat 8 (w.toNat / 256)
  let lo (w : Word16) : Byte := BitVec.ofNat 8 (w.toNat % 256)
  let num (n : Nat) : Byte := BitVec.ofNat 8 n
  let bit (b : Bool) : Byte := if b then 0x01 else 0x00
  let buffer (x : Option BufNo) : Byte := match x with | none => 0xFF | some b => num b.val
  let classCode (c : ExClass) : Byte := match c with | .urgent => 0 | .normal => 1 | .bulk => 2
  let outcomeCode (o : ExOutcome) : Byte := match o with
    | .answered => 0 | .refused => 1 | .noReply => 2 | .badReply => 3 | .lineError => 4 | .sent => 5 | .cancelled => 6
    | .aborted => 7 | .stationDown => 8
  (∀ (h : HostId) (r : ResultCode) (off : Nat) (bytes : List Byte) (s : State) (k : Fin 24),
      readLocation h 0x42 (answerWith h r off bytes s) = some (resultByte r)
      ∧ readLocation h 0x42 (answer h r s) = some (resultByte r)
      ∧ readLocation h (BitVec.ofNat 7 (0x48 + k.val)) (answerWith h r off bytes s)
        = some (if off ≤ k.val then (bytes[k.val - off]?).getD (arg h k s) else arg h k s)
      ∧ readLocation h (BitVec.ofNat 7 (0x48 + k.val)) (answer h r s) = some (arg h k s))
  ∧ [ResultCode.ok, .pending, .empty, .deferred, .tooLate, .holdWaiting, .notHeld, .holdLimit].map resultByte
      = [0x00, 0x01, 0x02, 0x03, 0x04, 0x05, 0x06, 0x07]
  ∧ [ResultCode.badParam, .badBuffer, .bufferBusy, .noBuffer, .quota, .noSlot, .noEntry, .stationDown, .notFound,
      .notOwner, .notNow, .badCommand].map resultByte
      = [0x10, 0x11, 0x12, 0x13, 0x14, 0x15, 0x16, 0x17, 0x18, 0x19, 0x1A, 0x1F]
  ∧ (∀ (i : SlotNo) (x : Exchange),
      (exchangeFlags x).toNat % 4 = x.owner.val
      ∧ (exchangeFlags x).getLsbD 2 = x.promoted ∧ (exchangeFlags x).getLsbD 3 = x.cancelRequested
      ∧ (exchangeFlags x).getLsbD 4 = x.transmitted ∧ (exchangeFlags x).getLsbD 5 = x.payloadDropped
      ∧ (exchangeFlags x).getLsbD 6 = x.finish.isSome ∧ (exchangeFlags x).getLsbD 7 = x.replyFunction.isSome
      ∧ exchangeCopy i x =
        [num i.val, (match x.state with | .free => 0 | .queued => 1 | .active => 2 | .done => 3 | .orphan => 4),
          exchangeFlags x, (match x.origin with | .host => 0xFF | .poll e => num e.val),
          hi (x.tag.getD 0), lo (x.tag.getD 0), num x.station.val, x.function, classCode x.cls,
          buffer x.requestBuffer, num x.requestLength, buffer x.replyBuffer, num x.retryLimit, num x.replyTimeout,
          num x.attempts, num x.passCount, hi x.submission, lo x.submission,
          (match x.lastResult with
            | none => 0xFF | some .replyOk => 0 | some .replyNegative => 1 | some .noReply => 2 | some .badReply => 3
            | some .collision => 4 | some .lineStuck => 5 | some .aborted => 6),
          (match x.outcome with | none => 0xFF | some o => outcomeCode o),
          hi (x.finish.getD 0), lo (x.finish.getD 0), num x.replyLength, x.replyFunction.getD 0])
  ∧ (∀ (h : HostId) (n : StationNo) (x : Station),
      let waiter (ws : List Waiter) (k : Nat) : Byte := match ws[k]? with | none => 0xFF | some w => num w.host.val
      ∃ members : Byte, (∀ k : HostId, members.getLsbD k.val = tget x.subscribers k) ∧ members.toNat < 16
        ∧ stationCopy h n x =
          [num (n.val + 1), (match x.state with | .unknown => 0 | .online => 1 | .suspect => 2 | .failed => 3),
            num x.failures, bit x.nextSeq, bit x.attention, members, bit (tget x.unread h)]
          ++ (match x.hold with
            | none => [0xFF, 0x00, 0x00, 0x00, 0xFF, 0xFF, 0xFF]
            | some k => [num k.holder.val, hi k.lease, lo k.lease, num k.waiters.length,
                waiter k.waiters 0, waiter k.waiters 1, waiter k.waiters 2]))
  ∧ (∀ (e : EntryNo) (x : PollEntry),
      entryCopy e x =
        [num e.val, (match x.state with | .unused => 0 | .armed => 1 | .stopping => 2), num x.station.val, x.function,
          classCode x.cls, buffer x.requestBuffer, num x.requestLength, buffer x.snapshotBuffer,
          hi x.period, lo x.period, hi x.countdown, lo x.countdown,
          (match x.inst with | none => 0xFF | some i => num i.val),
          num (x.changeDetect.toNat + 2 * x.unreadChange.toNat + 4 * x.lastCheck.isSome.toNat),
          hi (x.lastCheck.getD 0), lo (x.lastCheck.getD 0),
          (match x.lastLength with | none => 0xFF | some n => num n),
          (match x.lastOutcome with | none => 0xFF | some o => outcomeCode o), num x.missed])
  ∧ (∀ c : Completion,
      completionCopy c =
        [hi c.tag, lo c.tag, num c.slot.val, num c.station.val, c.function, outcomeCode c.outcome, num c.attempts,
          num c.replyLength, c.replyFunction.getD 0,
          num (c.payloadDropped.toNat + 2 * c.promoted.toNat + 4 * c.replyFunction.isSome.toNat)])
  ∧ (∀ s : State,
      lineCopy s =
        [(match s.engine.state with
            | .quiet => 0 | .idle => 1 | .sending => 2 | .awaiting => 3 | .receiving => 4 | .stuck => 5),
          (match s.engine.current with | none => 0xFF | some i => num i.val), bit s.engine.retryDue,
          num s.pointers.urgent.val, num s.pointers.normal.val, num s.pointers.bulk.val,
          hi s.stats.framesSent, lo s.stats.framesSent, hi s.stats.repliesAccepted, lo s.stats.repliesAccepted,
          hi s.stats.badReplies, lo s.stats.badReplies, hi s.stats.staleFrames, lo s.stats.staleFrames,
          hi s.stats.strayFrames, lo s.stats.strayFrames, hi s.stats.noReplies, lo s.stats.noReplies,
          hi s.stats.collisions, lo s.stats.collisions, hi s.stats.stuckEvents, lo s.stats.stuckEvents,
          hi s.stats.cutOffReplies, lo s.stats.cutOffReplies]
      ∧ settingsCopy s =
        [num s.active.rateCode, num s.active.stopBits, num s.active.guardLength, num s.active.defaultTimeout,
          num s.active.defaultRetries, num s.active.failureThreshold, num s.active.agingLimit, num s.active.poolLow,
          num s.active.exchangeQuota, num s.active.bufferQuota, bit s.staged.isSome])

/-- NOTICE_MASK_WRITE replaces all eight mask bits and no latch; which sources are active follows the new mask; a read of the location gives the mask byte (R155). -/
def Obligations.NoticeMaskWriteReplacesTheMask : Prop :=
  ∀ (h : HostId) (v : Byte) (s : State), portServes h s = true →
    ∃ t, exec (.noticeMaskWrite h v) s = .next t
      ∧ t = s.setNotice h ⟨(s.notice h).pending, v⟩
      ∧ readLocation h 0x44 t = some v
      ∧ activeBits (t.notice h) = (s.notice h).pending &&& ~~~v
      ∧ noticeOutput h t = decide ((s.notice h).pending &&& ~~~v ≠ 0)

/-- NOTICE_CODE_READ returns the lowest active source code and clears that latch alone, or returns 0xFF and clears nothing (R154); PORT_STATUS_READ returns the status byte and clears the window-refused flag alone; the byte shows that flag, the NOTICE output, and whether the host's backlog has an exchange (R71, R174). A notice handed to a host sets the latch of its source, by the bits of R151, and leaves the other latches and the mask; a source is active when it is pending and not masked, and NOTICE is asserted while one is (R151, R152, R156). The byte returned is on the port's data lines (log 12). Every other read outside the window changes nothing and gives what the table of 11.1 gives: the select, 0x00 at the command location and from 0x60 on, the result, the mask, the pending byte (R153), the completion count (R148), a byte of the parameter area (R168). PORT_REGISTER_WRITE stores into the buffer select or a parameter-area byte, and a location marked as ignored keeps nothing (R168). A write at the command location issues the command that its code names in the table of R172; an unknown code only sets the result to BAD_COMMAND (R170; as a PORT_REGISTER_WRITE, log 27). -/
def Obligations.PortLocationsReadAndWrite : Prop :=
  (∀ (h : HostId) (s : State), portServes h s = true →
      (∀ n, n < 8 → (activeBits (s.notice h)).getLsbD n = true →
        (∀ m, m < n → (activeBits (s.notice h)).getLsbD m = false) →
        exec (.noticeCodeRead h) s = .next ((s.setNotice h
          ⟨(s.notice h).pending &&& ~~~((1 : Byte) <<< n), (s.notice h).mask⟩).setPort h
            { s.port h with data := BitVec.ofNat 8 n }))
      ∧ (activeBits (s.notice h) = 0 →
        exec (.noticeCodeRead h) s = .next (s.setPort h { s.port h with data := 0xFF }))
      ∧ exec (.portStatusRead h) s
        = .next (s.setPort h { s.port h with data := statusByte h s, windowRefused := false })
      ∧ (statusByte h s).getLsbD 0 = (s.port h).windowRefused
      ∧ (statusByte h s).getLsbD 1 = noticeOutput h s
      ∧ ((statusByte h s).getLsbD 2 = true ↔
          ∃ i, (s.slot i).state = .done ∧ (s.slot i).origin = .host ∧ (s.slot i).owner = h)
      ∧ (∀ n, 3 ≤ n → (statusByte h s).getLsbD n = false))
  ∧ (∀ (h : HostId) (v : Byte) (s : State), portServes h s = true →
      exec (.portRegisterWrite h 0x40 v) s = .next (s.setPort h { s.port h with select := v })
      ∧ (∀ k : Fin 24, exec (.portRegisterWrite h (BitVec.ofNat 7 (0x48 + k.val)) v) s
          = .next (s.setPort h { s.port h with params := tput (s.port h).params k v }))
      ∧ (∀ l : BitVec 7, l = 0x42 ∨ l = 0x43 ∨ l = 0x45 ∨ l = 0x46 ∨ l = 0x47 ∨ 0x60 ≤ l.toNat →
          exec (.portRegisterWrite h l v) s = .next s)
      ∧ (∀ code row, (code, row) ∈ commandCodes h →
          exec (.portRegisterWrite h 0x41 code) s = exec row s ∧ exec (.badCommand h code) s = exec row s)
      ∧ (∀ code : Byte, (∀ row, (code, row) ∉ commandCodes h) →
          exec (.badCommand h code) s = .next (s.setPort h { s.port h with result := .badCommand })
          ∧ exec (.portRegisterWrite h 0x41 code) s = .next (s.setPort h { s.port h with result := .badCommand })))
  ∧ (∀ (h : HostId) (s : State),
      readLocation h 0x40 s = some (s.port h).select ∧ readLocation h 0x41 s = some 0x00
      ∧ readLocation h 0x42 s = some (resultByte (s.port h).result) ∧ readLocation h 0x44 s = some (s.notice h).mask
      ∧ readLocation h 0x45 s = some (s.notice h).pending
      ∧ readLocation h 0x47 s = some (BitVec.ofNat 8 (s.queue h).length)
      ∧ (∀ k : Fin 24, readLocation h (BitVec.ofNat 7 (0x48 + k.val)) s = some (arg h k s))
      ∧ ∀ l : BitVec 7, 0x60 ≤ l.toNat → readLocation h l s = some 0x00)
  ∧ (∀ (h : HostId) (source : NoticeSource) (s : State),
      latch h source s = s.setNotice h ((s.notice h).latched source)
      ∧ (∀ k, (latchAll source s).notice k = (s.notice k).latched source)
      ∧ { latchAll source s with notices := s.notices } = s
      ∧ (noticeOutput h s = true ↔ ∃ n, (s.notice h).pending.getLsbD n = true ∧ (s.notice h).mask.getLsbD n = false))
  ∧ ∀ (c : NoticeCtl) (source : NoticeSource),
      let code : Nat := match source with
        | .lineFault => 0 | .holdExpired => 1 | .holdGranted => 2 | .completion => 3
        | .stationChange => 4 | .pollChange => 5 | .poolLow => 6 | .settings => 7
      (c.latched source).mask = c.mask
      ∧ (∀ n, (c.latched source).pending.getLsbD n = (decide (n = code) || c.pending.getLsbD n))
      ∧ ∀ n, (activeBits c).getLsbD n = (c.pending.getLsbD n && !c.mask.getLsbD n)

/-- READ_LINE, READ_SETTINGS and CLEAR_STATS are answered OK for any host; the reads place their copy from offset 0 on and change nothing else, CLEAR_STATS sets the nine counters to 0 (R113, R114, R164). READ_EXCHANGE shows a slot that is not FREE to its owner, and is refused otherwise (R78). -/
def Obligations.ReadsAndClearStats : Prop :=
  ∀ (h : HostId) (s : State), portServes h s = true →
    exec (.readLine h) s = .next (answerWith h .ok 0 (lineCopy s) s)
    ∧ exec (.readSettings h) s = .next (answerWith h .ok 0 (settingsCopy s) s)
    ∧ exec (.clearStats h) s = .next (answer h .ok { s with stats := ⟨0, 0, 0, 0, 0, 0, 0, 0, 0⟩ })
    ∧ (∀ i : SlotNo, (arg h 0 s).toNat = i.val →
        ((s.slot i).state ≠ .free → (s.slot i).owner = h →
          exec (.readExchange h) s = .next (answerWith h .ok 0 (exchangeCopy i (s.slot i)) s))
        ∧ ((s.slot i).state = .free ∨ (s.slot i).owner ≠ h →
          exec (.readExchange h) s = .next (answer h .notOwner s)))
    ∧ (32 ≤ (arg h 0 s).toNat → exec (.readExchange h) s = .next (answer h .badParam s))

/-! ## The Station Table -/

/-- READ_STATION and READ_POLL (R33, R141): a number names the record, 0xFF the lowest of the host's with its unread flag set; the copy shows the record as it stood and then that flag alone is cleared. -/
def Obligations.RecordReadsShowThenClear : Prop :=
  ∀ (h : HostId) (s : State), portServes h s = true →
    (∀ n : StationNo,
      ((arg h 0 s).toNat = n.val + 1
        ∨ (arg h 0 s = 0xFF ∧ tget (s.station n).unread h = true ∧ ∀ m, m < n → tget (s.station m).unread h = false)) →
      exec (.readStation h) s = .next (answerWith h .ok 0 (stationCopy h n (s.station n))
        (s.setStation n { s.station n with unread := tput (s.station n).unread h false })))
    ∧ (arg h 0 s = 0xFF → (∀ m, tget (s.station m).unread h = false) →
      exec (.readStation h) s = .next (answer h .notFound s))
    ∧ ((arg h 0 s = 0 ∨ 32 ≤ (arg h 0 s).toNat ∧ arg h 0 s ≠ 0xFF) →
      exec (.readStation h) s = .next (answer h .badParam s))
    ∧ (∀ e : EntryNo, (s.entry e).state ≠ .unused → (s.entry e).owner = h →
      ((arg h 0 s).toNat = e.val
        ∨ (arg h 0 s = 0xFF ∧ (s.entry e).unreadChange = true
          ∧ ∀ m, m < e → (s.entry m).state = .unused ∨ (s.entry m).owner ≠ h ∨ (s.entry m).unreadChange = false)) →
      exec (.readPoll h) s = .next (answerWith h .ok 0 (entryCopy e (s.entry e))
        (s.setEntry e { s.entry e with unreadChange := false })))
    ∧ (arg h 0 s = 0xFF →
      (∀ m, (s.entry m).state = .unused ∨ (s.entry m).owner ≠ h ∨ (s.entry m).unreadChange = false) →
      exec (.readPoll h) s = .next (answer h .notFound s))
    ∧ (∀ e : EntryNo, (arg h 0 s).toNat = e.val → ((s.entry e).state = .unused ∨ (s.entry e).owner ≠ h) →
      exec (.readPoll h) s = .next (answer h .notOwner s))
    ∧ (16 ≤ (arg h 0 s).toNat → arg h 0 s ≠ 0xFF → exec (.readPoll h) s = .next (answer h .badParam s))

/-- SUBSCRIBE and UNSUBSCRIBE (R31, R32): the host joins or leaves the set and its unread-change flag is cleared; nothing else changes, no latch among it. -/
def Obligations.SubscribeAndUnsubscribe : Prop :=
  ∀ (h : HostId) (s : State), portServes h s = true →
    (∀ n : StationNo, (arg h 0 s).toNat = n.val + 1 →
      (tget (s.station n).subscribers h = false →
        exec (.subscribe h) s = .next (answer h .ok (s.setStation n { s.station n with
          subscribers := tput (s.station n).subscribers h true, unread := tput (s.station n).unread h false }))
        ∧ exec (.unsubscribe h) s = .next (answer h .notFound s))
      ∧ (tget (s.station n).subscribers h = true →
        exec (.subscribe h) s = .next (answer h .ok s)
        ∧ exec (.unsubscribe h) s = .next (answer h .ok (s.setStation n { s.station n with
          subscribers := tput (s.station n).subscribers h false, unread := tput (s.station n).unread h false }))))
    ∧ ((arg h 0 s = 0 ∨ 32 ≤ (arg h 0 s).toNat) →
      exec (.subscribe h) s = .next (answer h .badParam s) ∧ exec (.unsubscribe h) s = .next (answer h .badParam s))

/-- REVIVE (R36): a FAILED station goes to UNKNOWN with count 0 and its subscribers are told (R30); everything else stands. Any other station is refused. A flush of the station that waits at the Exchange Table is taken first (log 7). -/
def Obligations.ReviveLeavesFailed : Prop :=
  ∀ (h : HostId) (s : State), portServes h s = true →
    (∀ n : StationNo, (arg h 0 s).toNat = n.val + 1 →
      ((s.station n).state = .failed → s.hand.flush ≠ some n →
        ∃ t, exec (.revive h) s = .next (answer h .ok t)
          ∧ t.station n = { s.station n with
              state := .unknown, failures := 0
              unread := tmap (fun k u => u || tget (s.station n).subscribers k) (s.station n).unread }
          ∧ (∀ m, m ≠ n → t.station m = s.station m)
          ∧ (∀ k, t.notice k =
              if tget (s.station n).subscribers k then (s.notice k).latched .stationChange else s.notice k)
          ∧ { t with stations := s.stations, notices := s.notices } = s)
      ∧ ((s.station n).state = .failed → s.hand.flush = some n →
        ∀ u, exec .stationFlush s = .next u → exec (.revive h) s = exec (.revive h) u)
      ∧ ((s.station n).state ≠ .failed → exec (.revive h) s = .next (answer h .badParam s)))
    ∧ ((arg h 0 s = 0 ∨ 32 ≤ (arg h 0 s).toNat) → exec (.revive h) s = .next (answer h .badParam s))

/-- EXCHANGE_END_REPORT (R22 to R25, R28, R29, R34): once the Exchange Table has taken the end, the record changes by outcome and transmitted flag alone, subscribers are told of a change of state or a rise of attention, and an entry to FAILED hands the flush on. -/
def Obligations.ReportChangesTheRecord : Prop :=
  ∀ (s : State) (r : EndReport), s.porst = false → s.hand.endReport = some r → s.hand.exchangeEnd = none →
    ∃ t, exec .exchangeEndReport s = .next t
      ∧ (let x := s.station r.station
         let y := t.station r.station
         let count := if x.failures < 15 then x.failures + 1 else 15
         let told := y.state ≠ x.state ∨ (x.attention = false ∧ y.attention = true)
         y.nextSeq = (if r.transmitted then !x.nextSeq else x.nextSeq)
         ∧ (r.outcome = .answered ∨ r.outcome = .refused →
             y.state = .online ∧ y.failures = 0 ∧ y.attention = r.attention)
         ∧ (r.outcome = .noReply ∨ r.outcome = .badReply →
             y.failures = count ∧ y.attention = x.attention
             ∧ y.state = if s.active.failureThreshold ≤ y.failures then .failed else .suspect)
         ∧ (r.outcome = .lineError ∨ r.outcome = .cancelled ∨ r.outcome = .aborted →
             y.state = x.state ∧ y.failures = x.failures ∧ y.attention = x.attention)
         ∧ y.subscribers = x.subscribers ∧ y.hold = x.hold
         ∧ (told → (∀ k, tget y.unread k = (tget x.unread k || tget x.subscribers k))
             ∧ ∀ k, t.notice k = if tget x.subscribers k then (s.notice k).latched .stationChange else s.notice k)
         ∧ (¬ told → y.unread = x.unread ∧ t.notices = s.notices)
         ∧ t.hand = { s.hand with
             endReport := none
             flush := if y.state = .failed ∧ x.state ≠ .failed then some r.station else s.hand.flush })
      ∧ (∀ m, m ≠ r.station → t.station m = s.station m)
      ∧ { t with stations := s.stations, notices := s.notices, hand := s.hand } = s

/-! ## Station holds -/

/-- HOLD: the six cases of R116 in their order, with the bytes returned; a host's held count is the number of stations whose holder it is (R115). None makes a run or a notice. That a renewal drops a tick that waits at the lease is the model's reading of R119, R122 and R166 (log 9, DEDUCED). -/
def Obligations.HoldAnswersByCase : Prop :=
  (∀ (h : HostId) (s : State), heldCount h s
    = ((List.finRange 31).filter fun n => decide ((s.station n).hold.map Hold.holder = some h)).length)
  ∧ ∀ (h : HostId) (s : State), portServes h s = true →
    ((arg h 0 s = 0 ∨ 32 ≤ (arg h 0 s).toNat ∨ arg16 h 1 2 s = 0) →
      exec (.hold h) s = .next (answer h .badParam s))
    ∧ ∀ (n : StationNo) (lease : Word16), (arg h 0 s).toNat = n.val + 1 → arg16 h 1 2 s = lease → lease ≠ 0 →
      (∀ k, (s.station n).hold = some k → k.holder = h →
        exec (.hold h) s = .next (answerWith h .ok 3 [natByte h.val, hiByte lease, loByte lease, 0]
          (s.setStation n { s.station n with hold := some ⟨h, lease, k.waiters, false⟩ })))
      ∧ (∀ k before w after, (s.station n).hold = some k → k.holder ≠ h → k.waiters = before ++ w :: after →
        w.host = h → (∀ v ∈ before, v.host ≠ h) →
        exec (.hold h) s = .next (answerWith h .holdWaiting 3
          [natByte k.holder.val, hiByte k.lease, loByte k.lease, natByte (before.length + 1)] s))
      ∧ (((s.station n).hold = none
          ∨ ∃ k, (s.station n).hold = some k ∧ k.holder ≠ h ∧ ∀ v ∈ k.waiters, v.host ≠ h) →
        4 ≤ heldCount h s → exec (.hold h) s = .next (answer h .holdLimit s))
      ∧ ((s.station n).hold = none → heldCount h s < 4 →
        exec (.hold h) s = .next (answerWith h .ok 3 [natByte h.val, hiByte lease, loByte lease, 0]
          (s.setStation n { s.station n with hold := some ⟨h, lease, [], false⟩ })))
      ∧ (∀ k, (s.station n).hold = some k → k.holder ≠ h → (∀ v ∈ k.waiters, v.host ≠ h) → heldCount h s < 4 →
        exec (.hold h) s = .next (answerWith h .holdWaiting 3
          [natByte k.holder.val, hiByte k.lease, loByte k.lease, natByte (k.waiters.length + 1)]
          (s.setStation n { s.station n with hold := some { k with waiters := k.waiters ++ [⟨h, lease⟩] } })))

/-- RELEASE and LEASE_EXPIRY (R118, R120, R121): a release by the holder, and an expiry after HOLD_EXPIRED to the holder, hand the station over; a release by a waiter takes its entry out; any other is NOT_HELD. That the last tick waits at the lease for the row of its expiry is the model's (log 8, DEDUCED from R119 and R165); that a hand-over's new lease has no tick waiting is its reading of R119, R122 and R166 (log 9, DEDUCED). -/
def Obligations.ReleaseAndExpiryHandOver : Prop :=
  (∀ (h : HostId) (s : State), portServes h s = true →
    ((arg h 0 s = 0 ∨ 32 ≤ (arg h 0 s).toNat) → exec (.release h) s = .next (answer h .badParam s))
    ∧ ∀ n : StationNo, (arg h 0 s).toNat = n.val + 1 →
      (∀ k, (s.station n).hold = some k → k.holder = h →
        ∃ t, HandedOver n s t ∧ exec (.release h) s = .next (answer h .ok t))
      ∧ (∀ k, (s.station n).hold = some k → k.holder ≠ h → (∃ w ∈ k.waiters, w.host = h) →
        exec (.release h) s = .next (answer h .ok (s.setStation n { s.station n with
          hold := some { k with waiters := k.waiters.filter fun w => decide (w.host ≠ h) } })))
      ∧ (((s.station n).hold = none
          ∨ ∃ k, (s.station n).hold = some k ∧ k.holder ≠ h ∧ ∀ w ∈ k.waiters, w.host ≠ h) →
        exec (.release h) s = .next (answer h .notHeld s)))
  ∧ ∀ (n : StationNo) (k : Hold) (s : State), s.porst = false → (s.station n).hold = some k → k.tickWaiting = true →
    ∃ t, HandedOver n (latch k.holder .holdExpired s) t ∧ exec (.leaseExpiry n) s = .next t

/-! ## The Buffer Pool and its arbiter -/

/-- BUF_ALLOC (R47, R49): QUOTA, judged by the number of buffers that are HOST of the host (R46), before NO_BUFFER; else the head of the free list goes to the host, the clearing waits at the arbiter with the bytes to return, and POOL_LOW goes to all hosts exactly when the free count falls from the threshold. That the answer comes with the clearing's service is read from R47 (log 13). At its service the 64 bytes of the buffer read 0x00, no other byte changes, and the command is answered OK with its three bytes; the service holds the memory for 64 clock periods, and READY with it (R51; that READY waits for them is log 14). -/
def Obligations.AllocationTakesTheHeadCleared : Prop :=
  (∀ (h : HostId) (s : State),
      ownedCount h s = ((List.finRange 96).filter fun b => decide (s.holder b = .host h)).length)
  ∧ (∀ (h : HostId) (s : State), portServes h s = true →
      (s.active.bufferQuota ≤ ownedCount h s → exec (.bufAlloc h) s = .next (answer h .quota s))
      ∧ (ownedCount h s < s.active.bufferQuota → s.freeList = [] → exec (.bufAlloc h) s = .next (answer h .noBuffer s))
      ∧ ∀ b rest, ownedCount h s < s.active.bufferQuota → s.freeList = b :: rest → s.holder b = .free →
        ∃ t, exec (.bufAlloc h) s = .next (if s.active.poolLow = rest.length + 1 then latchAll .poolLow t else t)
          ∧ t.holder b = .host h ∧ t.attachment b = none ∧ t.freeList = rest
          ∧ (∀ c, c ≠ b → t.holder c = s.holder c ∧ t.attachment c = s.attachment c)
          ∧ ownedCount h t = ownedCount h s + 1 ∧ (∀ k, k ≠ h → ownedCount k t = ownedCount k s)
          ∧ t.port h = { s.port h with claim := some (.clear b (ownedCount h s + 1) rest.length) }
          ∧ (∀ k, k ≠ h → t.port k = s.port k)
          ∧ { t with ports := s.ports, holders := s.holders, attached := s.attached, freeList := s.freeList } = s)
  ∧ (∀ (h : HostId) (b : BufNo) (owned free : Nat) (s : State), s.porst = false → servedNext h s →
      (s.port h).claim = some (.clear b owned free) → Memory.wf s.mem →
      ∃ t, exec .arbiterServe s = .next t
        ∧ (∀ (c : BufNo) (p : Fin 64), t.bufferByte c p.val = if c = b then 0x00 else s.bufferByte c p.val)
        ∧ { t with mem := s.mem } = answerWith h .ok 0 [natByte b.val, natByte owned, natByte free]
            { s.setPort h { s.port h with claim := none } with
              lastServed := h, service := some (serviceOf h 64 (s.port h)) })

/-- BUF_FREE (R48): only a buffer that is HOST of the caller and not attached is freed; it joins the tail of the free list with its bytes as they are. -/
def Obligations.FreeingAppendsAtTheTail : Prop :=
  ∀ (h : HostId) (s : State), portServes h s = true →
    (∀ b : BufNo, (arg h 0 s).toNat = b.val →
      (s.holder b = .host h → s.attachment b = none →
        exec (.bufFree h) s = .next (answer h .ok
          { s with holders := tput s.holders b .free, freeList := s.freeList ++ [b] }))
      ∧ (s.holder b = .host h → s.attachment b ≠ none → exec (.bufFree h) s = .next (answer h .bufferBusy s))
      ∧ (s.holder b ≠ .host h → exec (.bufFree h) s = .next (answer h .badBuffer s)))
    ∧ (96 ≤ (arg h 0 s).toNat → exec (.bufFree h) s = .next (answer h .badBuffer s))

/-- Window accesses (R50, R51): the access waits as a one-byte claim; when the arbiter comes to it, host `h`'s window is judged there and then. Allowed, a read returns the byte and a write stores that byte alone; refused, a read returns 0xFF, a write is discarded, and the window-refused flag is set. `h` becomes the last served, and its claim is in service for one clock period, READY withheld (log 14). -/
def Obligations.WindowIsJudgedAtService : Prop :=
  (∀ (h : HostId) (o : Fin 64) (v : Byte) (s : State), portServes h s = true →
    exec (.windowRead h o) s = .next (s.setPort h { s.port h with claim := some (.read o) })
    ∧ exec (.windowWrite h o v) s = .next (s.setPort h { s.port h with claim := some (.write o v) }))
  ∧ ∀ (h : HostId) (o : Fin 64) (v : Byte) (s : State), s.porst = false → servedNext h s →
    (∀ b : BufNo, (s.port h).select.toNat = b.val → s.holder b = .host h → s.attachment b = none →
      ((s.port h).claim = some (.read o) →
        exec .arbiterServe s = .next
          { s.setPort h { s.port h with claim := none, data := s.bufferByte b o.val } with
            lastServed := h, service := some (serviceOf h 1 (s.port h)) })
      ∧ ((s.port h).claim = some (.write o v) → Memory.wf s.mem →
        ∃ t, exec .arbiterServe s = .next t
          ∧ (∀ (c : BufNo) (p : Fin 64), t.bufferByte c p.val = if c = b ∧ p = o then v else s.bufferByte c p.val)
          ∧ { t with mem := s.mem } = { s.setPort h { s.port h with claim := none } with
              lastServed := h, service := some (serviceOf h 1 (s.port h)) }))
    ∧ ((∀ b : BufNo, (s.port h).select.toNat = b.val → s.holder b ≠ .host h ∨ s.attachment b ≠ none) →
      ((s.port h).claim = some (.read o) →
        exec .arbiterServe s = .next { s.setPort h { s.port h with claim := none, data := 0xFF, windowRefused := true } with
          lastServed := h, service := some (serviceOf h 1 (s.port h)) })
      ∧ ((s.port h).claim = some (.write o v) →
        exec .arbiterServe s = .next { s.setPort h { s.port h with claim := none, windowRefused := true } with
          lastServed := h, service := some (serviceOf h 1 (s.port h)) }))

/-- The engine's claim is served before any host claim (R51, R52): a fetch puts its byte before the transmitter; a copy writes the reply's payload into the first bytes of its buffer and no other byte, and then the attempt ends by bit 7 of the reply's function (R102). The claim then holds the memory for one clock period, or one for each byte of the copy. With no claim waiting, nothing is served, and while a claim in service keeps the next one from the memory, none is (R51). That the work of a claim is done at the beginning of its service, and that a service of the engine's own never keeps its next claim waiting, is log 14. -/
def Obligations.EngineClaimIsServedFirst : Prop :=
  ∀ s : State, s.porst = false →
    (∀ b o, s.engineClaim = some (.fetch b o) → ¬ EngineKeptOut s →
      exec .arbiterServe s = .next ({ s with engineClaim := none, service := some ⟨.engine, 1⟩ }.setLif
        { s.lif with sending := { s.lif.sending with nextPayload := some (s.bufferByte b o) } }))
    ∧ (∀ b len y, s.engineClaim = some (.copy b len) → ¬ EngineKeptOut s → len ≤ 64 → s.engine.reply = some y →
        Memory.wf s.mem →
      ∃ u, exec .arbiterServe s = .next
          (attemptEnd (if y.function.getLsbD 7 then .replyNegative else .replyOk) u)
        ∧ (∀ (c : BufNo) (p : Fin 64), u.bufferByte c p.val =
            if c = b ∧ p.val < len then tget s.lif.frame.payload p else s.bufferByte c p.val)
        ∧ { u with mem := s.mem } =
            { s with
              engineClaim := none, service := some ⟨.engine, len⟩, engine := { s.engine with copyOutstanding := false } })
    ∧ (s.engineClaim = none → (∀ h, (s.port h).claim = none) → exec .arbiterServe s = .next s)
    ∧ (s.engineClaim ≠ none → EngineKeptOut s → exec .arbiterServe s = .next s)
    ∧ (s.engineClaim = none → s.service ≠ none → exec .arbiterServe s = .next s)

/-! ## The Exchange Table -/

/-- SUBMIT is refused with the result of the first check of R63 that fails, and then changes nothing else. A SUBMIT that passes every check (R64): the lowest FREE slot takes the record the arguments spell, with defaults where they ask for them (R62), its buffers are lent to it, and the slot and submission numbers are returned. A host's occupancy, by which the quota is judged, is the number of slots that are not FREE and name it as owner (R61). That for check 3 a broadcast names a reply buffer by any value but 0xFF is the model's choice (log 38). -/
def Obligations.SubmitChecksThenFillsTheLowestSlot : Prop :=
  (∀ (h : HostId) (s : State), occupancy h s
    = ((List.finRange 32).filter fun i => decide ((s.slot i).state ≠ .free ∧ (s.slot i).owner = h)).length)
  ∧ (∀ (h : HostId) (r : ResultCode) (s : State), portServes h s = true → firstFailure (submitChecks h s) (some r) →
      exec (.submit h) s = .next (answer h r s))
  ∧ (∀ (h : HostId) (i : SlotNo) (a : StationAddr) (c : ExClass) (q p : Option BufNo) (s : State),
      portServes h s = true → firstFailure (submitChecks h s) none → lowestFree i s →
      (arg h 0 s).toNat = a.val → arg h 2 s = classByte c → namesBuffer (arg h 3 s) q → namesBuffer (arg h 5 s) p →
      ∃ t u, Placed i
          { freeExchange with
            state := .queued, owner := h, origin := .host, tag := some (arg16 h 6 7 s)
            station := a, function := arg h 1 s, cls := c
            requestBuffer := q, requestLength := (arg h 4 s).toNat, replyBuffer := p
            retryLimit := if arg h 8 s = 0xFF then s.active.defaultRetries else (arg h 8 s).toNat
            replyTimeout := if arg h 9 s = 0 then s.active.defaultTimeout else (arg h 9 s).toNat } s t
        ∧ Lent (.slot i) q p t u
        ∧ exec (.submit h) s = .next
            (answerWith h .ok 10 [natByte i.val, hiByte s.submission, loByte s.submission] u))

/-- CANCEL (R72, R73): answered by the record of the slot named. An end of that exchange which waits at the table is taken first (log 7). -/
def Obligations.CancelAnswersByTheRecord : Prop :=
  ∀ (h : HostId) (s : State), portServes h s = true →
    (32 ≤ (arg h 0 s).toNat → exec (.cancel h) s = .next (answer h .badParam s))
    ∧ ∀ i : SlotNo, (arg h 0 s).toNat = i.val →
      (∀ e, s.hand.exchangeEnd = some e → e.slot = i →
        ∀ u, exec .exchangeEndTaken s = .next u → exec (.cancel h) s = exec (.cancel h) u)
      ∧ ((∀ e, s.hand.exchangeEnd = some e → e.slot ≠ i) →
        ((s.slot i).state = .free ∨ (s.slot i).owner ≠ h ∨ (s.slot i).origin ≠ .host ∨ (s.slot i).state = .orphan →
          exec (.cancel h) s = .next (answer h .notOwner s))
        ∧ ((s.slot i).owner = h → (s.slot i).origin = .host →
          ((s.slot i).state = .queued →
            ∃ t, EnteredDone i { s.slot i with
                outcome := some .cancelled, replyLength := 0, replyFunction := none, payloadDropped := false } s t
              ∧ exec (.cancel h) s = .next (answer h .ok t))
          ∧ ((s.slot i).state = .active →
            exec (.cancel h) s = .next (answer h .deferred (s.setSlot i { s.slot i with cancelRequested := true })))
          ∧ ((s.slot i).state = .done → exec (.cancel h) s = .next (answer h .tooLate s))))

/-- EXCHANGE_END_TAKEN (R69, R70, R77): a HOST-origin exchange enters DONE with the end fields recorded; a poll instance is handed back to its entry and its slot freed; an ORPHAN of HOST origin leaves the table with its buffers unlent, with no finish number and no post. -/
def Obligations.EndIsTakenByOriginAndState : Prop :=
  ∀ (s : State) (e : ExchangeEnd), s.porst = false → s.hand.exchangeEnd = some e →
    ((s.slot e.slot).state = .active → (s.slot e.slot).origin = .host →
      ∃ t, EnteredDone e.slot { s.slot e.slot with
          outcome := some e.outcome, lastResult := some e.result, replyLength := e.replyLength
          replyFunction := e.replyFunction, payloadDropped := e.payloadDropped }
          (s.setHand { s.hand with exchangeEnd := none }) t
        ∧ exec .exchangeEndTaken s = .next t)
    ∧ ((s.slot e.slot).state = .orphan → (s.slot e.slot).origin = .host →
      ∃ u, Unlent (.slot e.slot) (s.setHand { s.hand with exchangeEnd := none }) u
        ∧ exec .exchangeEndTaken s = .next (u.setSlot e.slot freeExchange))
    ∧ (∀ p, (s.slot e.slot).state = .active ∨ (s.slot e.slot).state = .orphan → (s.slot e.slot).origin = .poll p →
      exec .exchangeEndTaken s = .next ((s.setHand { s.hand with
          exchangeEnd := none
          instEnd := some ⟨p, e.slot, e.outcome, (s.slot e.slot).attempts, e.replyLength, e.replyFunction,
            e.payloadDropped, e.check, decide ((s.slot e.slot).state = .orphan)⟩ }).setSlot e.slot freeExchange))

/-- STATION_FLUSH (R74): every QUEUED HOST-origin exchange to the station, and no other, enters DONE with STATION_DOWN in ascending slot order, taking the next finish numbers; of each owner's, as many as its queue has room for are posted, COMPLETION latched, and the rest wait in the backlog. Their buffers are unlent: one that is ORPHANED becomes FREE and joins the free list's tail, and no other does (R44, R55). -/
def Obligations.FlushEndsTheQueuedWork : Prop :=
  ∀ (n : StationNo) (s : State), s.porst = false → s.hand.flush = some n →
    ∃ t, exec .stationFlush s = .next t
      ∧ (let hit := (List.finRange 32).filter fun i =>
            decide ((s.slot i).state = .queued ∧ (s.slot i).origin = .host ∧ (s.slot i).station = n.address)
         let posted (h : HostId) := (hit.filter fun i => decide ((s.slot i).owner = h)).take (16 - (s.queue h).length)
         t.finish = s.finish + BitVec.ofNat 16 hit.length
         ∧ (∀ i, i ∉ hit → t.slot i = s.slot i)
         ∧ (∀ k i, hit[k]? = some i → t.slot i =
              if i ∈ posted (s.slot i).owner then freeExchange
              else { s.slot i with
                state := .done, outcome := some .stationDown, finish := some (s.finish + BitVec.ofNat 16 k)
                replyLength := 0, replyFunction := none, payloadDropped := false })
         ∧ (∀ h, t.queue h = s.queue h ++ (posted h).map fun i =>
              ⟨(s.slot i).tag.getD 0, i, (s.slot i).station, (s.slot i).function, .stationDown, (s.slot i).attempts,
                0, none, false, (s.slot i).promoted⟩)
         ∧ (∀ h, t.notice h = if posted h = [] then s.notice h else (s.notice h).latched .completion)
         ∧ t.hand = { s.hand with flush := none }
         ∧ (∀ b, (∃ x i, s.attachment b = some x ∧ x.attacher = .slot i ∧ i ∈ hit) → t.attachment b = none)
         ∧ (∀ b, (∀ x i, s.attachment b = some x → x.attacher = .slot i → i ∉ hit) →
              t.attachment b = s.attachment b ∧ t.holder b = s.holder b)
         ∧ (∀ b, (∃ x i, s.attachment b = some x ∧ x.attacher = .slot i ∧ i ∈ hit) →
              t.holder b = if s.holder b = .orphaned then .free else s.holder b)
         ∧ ∃ back, t.freeList = s.freeList ++ back ∧ ∀ b, b ∈ back ↔
              s.holder b = .orphaned ∧ ∃ x i, s.attachment b = some x ∧ x.attacher = .slot i ∧ i ∈ hit)
      ∧ { t with
          slots := s.slots, finish := s.finish, holders := s.holders, attached := s.attached
          freeList := s.freeList, queues := s.queues, notices := s.notices, hand := s.hand } = s

/-- POP_COMPLETION (R147, R71): an empty queue answers EMPTY; otherwise the head record is returned and removed, and in the same step the exchange of the host's backlog with the oldest finish number, if any, is posted into the freed place and its slot freed. -/
def Obligations.PopReturnsTheHeadAndPostsTheOldest : Prop :=
  ∀ (h : HostId) (s : State), portServes h s = true →
    (s.queue h = [] → exec (.popCompletion h) s = .next (answer h .empty s))
    ∧ ∀ c rest, s.queue h = c :: rest →
      ((∀ i, (s.slot i).state = .done → (s.slot i).origin = .host → (s.slot i).owner ≠ h) →
        exec (.popCompletion h) s = .next (answerWith h .ok 0 (completionCopy c) (s.setQueue h rest)))
      ∧ ∀ i f, (s.slot i).state = .done → (s.slot i).origin = .host → (s.slot i).owner = h →
        (s.slot i).finish = some f →
        (∀ j g, j ≠ i → (s.slot j).state = .done → (s.slot j).origin = .host → (s.slot j).owner = h →
          (s.slot j).finish = some g → (s.finish - g).toNat < (s.finish - f).toNat) →
        (∀ j, (s.slot j).state = .done → (s.slot j).origin = .host → (s.slot j).finish ≠ none) →
        exec (.popCompletion h) s = .next (answerWith h .ok 0 (completionCopy c)
          ((latch h .completion (s.setQueue h (rest ++
            [⟨(s.slot i).tag.getD 0, i, (s.slot i).station, (s.slot i).function, (s.slot i).outcome.getD .aborted,
              (s.slot i).attempts, (s.slot i).replyLength, (s.slot i).replyFunction, (s.slot i).payloadDropped,
              (s.slot i).promoted⟩]))).setSlot i freeExchange))

/-! ## The Poll List -/

/-- POLL_START is refused with the result of the first check of R130 that fails, and then changes nothing else; that check 3 comes for both buffers before check 4 for either is the model's choice (log 34). One that passes fills the lowest UNUSED entry and lends its buffers to it; with first delay 0 the entry falls due within the command (R131). -/
def Obligations.PollStartArmsTheLowestEntry : Prop :=
  (∀ (h : HostId) (r : ResultCode) (s : State), portServes h s = true →
    firstFailure (pollStartChecks h s) (some r) → exec (.pollStart h) s = .next (answer h r s))
  ∧ ∀ (h : HostId) (e : EntryNo) (a : StationAddr) (c : ExClass) (q p : Option BufNo) (s : State),
    portServes h s = true → firstFailure (pollStartChecks h s) none →
    (s.entry e).state = .unused → (∀ m, m < e → (s.entry m).state ≠ .unused) →
    (arg h 0 s).toNat = a.val → arg h 2 s = classByte c → namesBuffer (arg h 3 s) q → namesBuffer (arg h 5 s) p →
    ∃ t u, Lent (.entry e) q p (s.setEntry e
          { state := .armed, owner := h, station := a, function := arg h 1 s, cls := c
            requestBuffer := q, requestLength := (arg h 4 s).toNat, snapshotBuffer := p
            period := arg16 h 6 7 s, countdown := arg16 h 8 9 s, inst := none
            changeDetect := decide (arg h 10 s = 1)
            lastCheck := none, lastLength := none, lastOutcome := none, missed := 0, unreadChange := false
            tickWaiting := false }) t
      ∧ (arg16 h 8 9 s ≠ 0 → u = t) ∧ (arg16 h 8 9 s = 0 → FellDue e t u)
      ∧ exec (.pollStart h) s = .next (answerWith h .ok 11 [natByte e.val] u)

/-- POLL_DUE (R132, R133): the tick's claim that waits at an ARMED entry lowers its countdown by one, and the entry falls due in the same step when that reaches 0. POLL_RETIME (R138): refused in the order BAD_PARAM, NOT_OWNER, NOT_NOW; otherwise period and countdown are set, and with first delay 0 the entry falls due before the command ends. That a tick waits at the entry for its row is the model's (log 8, DEDUCED from R132 and R165); that POLL_RETIME keeps a tick that waits is its reading of R134 and R138 (log 10, DEDUCED). -/
def Obligations.DueAndRetime : Prop :=
  (∀ (e : EntryNo) (s : State), s.porst = false → (s.entry e).state = .armed → (s.entry e).tickWaiting = true →
      ((s.entry e).countdown ≠ 1 → exec (.pollDue e) s = .next (s.setEntry e
        { s.entry e with countdown := (s.entry e).countdown - 1, tickWaiting := false }))
      ∧ ((s.entry e).countdown = 1 →
        ∃ t, FellDue e (s.setEntry e { s.entry e with countdown := 0, tickWaiting := false }) t
          ∧ exec (.pollDue e) s = .next t))
  ∧ (∀ (h : HostId) (s : State), portServes h s = true →
      ((16 ≤ (arg h 0 s).toNat ∨ arg16 h 1 2 s = 0) → exec (.pollRetime h) s = .next (answer h .badParam s))
      ∧ ∀ e : EntryNo, (arg h 0 s).toNat = e.val → arg16 h 1 2 s ≠ 0 →
        ((s.entry e).state = .unused ∨ (s.entry e).owner ≠ h → exec (.pollRetime h) s = .next (answer h .notOwner s))
        ∧ ((s.entry e).state = .stopping → (s.entry e).owner = h →
          exec (.pollRetime h) s = .next (answer h .notNow s))
        ∧ ((s.entry e).state = .armed → (s.entry e).owner = h →
          (arg16 h 3 4 s ≠ 0 → exec (.pollRetime h) s = .next (answer h .ok (s.setEntry e
            { s.entry e with period := arg16 h 1 2 s, countdown := arg16 h 3 4 s })))
          ∧ (arg16 h 3 4 s = 0 → ∃ t, FellDue e (s.setEntry e
              { s.entry e with period := arg16 h 1 2 s, countdown := 0 }) t
            ∧ exec (.pollRetime h) s = .next (answer h .ok t))))

/-- POLL_STOP (R139, R67): by the entry and its instance. A QUEUED instance is freed and the entry with its buffers with it; one on the line becomes ORPHAN and the entry STOPPING. An end of the instance that waits at the list is taken first (R140; log 7). -/
def Obligations.StopAnswersByTheInstance : Prop :=
  ∀ (h : HostId) (s : State), portServes h s = true →
    (16 ≤ (arg h 0 s).toNat → exec (.pollStop h) s = .next (answer h .badParam s))
    ∧ ∀ e : EntryNo, (arg h 0 s).toNat = e.val →
      ((s.entry e).state = .unused ∨ (s.entry e).owner ≠ h → exec (.pollStop h) s = .next (answer h .notOwner s))
      ∧ ((s.entry e).state ≠ .unused → (s.entry e).owner = h →
        (∀ d, s.hand.instEnd = some d → d.entry = e →
          ∀ u, exec .instanceEnd s = .next u → exec (.pollStop h) s = exec (.pollStop h) u)
        ∧ ((∀ d, s.hand.instEnd = some d → d.entry ≠ e) →
          ((s.entry e).state = .stopping → exec (.pollStop h) s = .next (answer h .deferred s))
          ∧ ((s.entry e).state = .armed → (s.entry e).inst = none →
            ∃ u, Unlent (.entry e) s u ∧ exec (.pollStop h) s = .next (answer h .ok (u.setEntry e unusedEntry)))
          ∧ (∀ i, (s.entry e).state = .armed → (s.entry e).inst = some i → (s.slot i).origin = .poll e →
            ((s.slot i).state = .queued →
              ∃ u, Unlent (.entry e) (s.setSlot i freeExchange) u
                ∧ exec (.pollStop h) s = .next (answer h .ok (u.setEntry e unusedEntry)))
            ∧ ((s.slot i).state = .active →
              exec (.pollStop h) s = .next (answer h .deferred
                ((s.setSlot i { s.slot i with state := .orphan }).setEntry e
                  { s.entry e with state := .stopping, tickWaiting := false }))))))

/-- INSTANCE_END (R135 to R137): at an ARMED entry the end is recorded, and with change detect set an accepted reply is a change, told to the owner, unless it has the last reply's length and its check value, or that value moved by the sequence correction; at a STOPPING entry, or after an ORPHAN, the entry's buffers are unlent and it becomes UNUSED. -/
def Obligations.InstanceEndIsRecordedOrStops : Prop :=
  ∀ (d : InstanceEnd) (s : State), s.porst = false → s.hand.instEnd = some d →
    ((s.entry d.entry).state = .armed → d.orphan = false →
      (d.outcome ≠ .answered → d.outcome ≠ .refused →
        exec .instanceEnd s = .next ((s.setHand { s.hand with instEnd := none }).setEntry d.entry
          { s.entry d.entry with inst := none, lastOutcome := some d.outcome }))
      ∧ (d.outcome = .answered ∨ d.outcome = .refused →
        ((s.entry d.entry).changeDetect = false →
          exec .instanceEnd s = .next ((s.setHand { s.hand with instEnd := none }).setEntry d.entry
            { s.entry d.entry with
              inst := none, lastOutcome := some d.outcome, lastLength := some d.replyLength }))
        ∧ ∀ c, (s.entry d.entry).changeDetect = true → d.check = some c →
          ((∃ k, (s.entry d.entry).lastCheck = some k ∧ (s.entry d.entry).lastLength = some d.replyLength
              ∧ (c = k ∨ c ^^^ k = sequenceCorrection d.replyLength)) →
            exec .instanceEnd s = .next ((s.setHand { s.hand with instEnd := none }).setEntry d.entry
              { s.entry d.entry with
                inst := none, lastOutcome := some d.outcome, lastLength := some d.replyLength, lastCheck := some c }))
          ∧ ((∀ k, (s.entry d.entry).lastCheck = some k → (s.entry d.entry).lastLength = some d.replyLength →
              c ≠ k ∧ c ^^^ k ≠ sequenceCorrection d.replyLength) →
            exec .instanceEnd s = .next (latch (s.entry d.entry).owner .pollChange
              ((s.setHand { s.hand with instEnd := none }).setEntry d.entry
                { s.entry d.entry with
                  inst := none, lastOutcome := some d.outcome, lastLength := some d.replyLength, lastCheck := some c
                  unreadChange := true })))))
    ∧ ((s.entry d.entry).state = .stopping ∨ ((s.entry d.entry).state = .armed ∧ d.orphan = true) →
      ∃ u, Unlent (.entry d.entry) (s.setHand { s.hand with instEnd := none }) u
        ∧ exec .instanceEnd s = .next (u.setEntry d.entry unusedEntry))

/-- The check of R8 over one more byte is the division by x^16 + x^12 + x^5 + 1 of the byte's bits fed most significant first, and over R8's nine bytes it is 0x29B1. The check over a frame and its own two check bytes leaves 0x0000; and two replies that differ only in the sequence bit of the address byte have checks that differ by the sequence correction for their length, whatever the other bytes are (R136). -/
def Obligations.ChecksCloseAndCorrect : Prop :=
  (∀ (c : Word16) (b : Byte),
    checkByte c b = (List.range 8).foldl (fun (r : Word16) k =>
      (r <<< 1) ^^^ (if r.getLsbD 15 != b.getLsbD (7 - k) then 0x1021 else 0x0000)) c)
  ∧ checkInit = 0xFFFF
  ∧ checkBytes checkInit [0x31, 0x32, 0x33, 0x34, 0x35, 0x36, 0x37, 0x38, 0x39] = 0x29B1
  ∧ (∀ bytes : List Byte,
    checkBytes checkInit (bytes ++ [hiByte (checkBytes checkInit bytes), loByte (checkBytes checkInit bytes)]) = 0)
  ∧ ∀ (address function length : Byte) (payload : List Byte),
    checkBytes checkInit ((address ^^^ 0x20) :: function :: length :: payload)
      ^^^ checkBytes checkInit (address :: function :: length :: payload) = sequenceCorrection payload.length

/-! ## The Line Engine -/

/-- A statistics counter is increased by one and held at 65535 (R112). SENT_REPORT (R97): frames sent counts, the record's transmitted flag is set, and with no decided result a station's exchange waits for its reply with the timer started, a broadcast's attempt ends REPLY_OK in QUIET; a decided result ends the attempt in QUIET. COLLISION_REPORT and CUT_COMPLETE_REPORT in SENDING (R98, R110): COLLISION is decided unless ABORTED is, the collision is counted and LINE_FAULT latched at all hosts; at the cut's end the engine is in QUIET and the attempt ends with the decided result. -/
def Obligations.SendingEndsByItsReports : Prop :=
  (∀ c : Word16, (c.toNat < 65535 → (bump c).toNat = c.toNat + 1) ∧ (c.toNat = 65535 → bump c = c))
  ∧ (∀ (i : SlotNo) (rest : List Report) (s : State), s.porst = false → s.lif.reports = .sent :: rest →
      s.engine.state = .sending → s.engine.current = some i →
      let u := (((s.setLif { s.lif with reports := rest }).setStats
        { s.stats with framesSent := bump s.stats.framesSent }).setSlot i { s.slot i with transmitted := true })
      ((s.slot i).station ≠ 0 → s.engine.decided = none →
        exec .sentReport s = .next (u.setEngine
          { s.engine with state := .awaiting, timer := ⟨(s.slot i).replyTimeout, true, false⟩ }))
      ∧ ((s.slot i).station = 0 → s.engine.decided = none →
        ∃ v t, InQuiet s.engine.frameInProgress u v ∧ AttemptEnded i .replyOk v t ∧ exec .sentReport s = .next t)
      ∧ (s.engine.decided = some .aborted →
        ∃ v t, InQuiet s.engine.frameInProgress u v ∧ AttemptEnded i .aborted v t ∧ exec .sentReport s = .next t))
  ∧ (∀ (rest : List Report) (s : State), s.porst = false → s.engine.state = .sending →
      (s.lif.reports = .collision :: rest →
        exec .collisionReport s = .next (latchAll .lineFault (((s.setLif { s.lif with reports := rest }).setStats
          { s.stats with collisions := bump s.stats.collisions }).setEngine
            { s.engine with decided := if s.engine.decided = some .aborted then some .aborted else some .collision })))
      ∧ (∀ i d, s.lif.reports = .cutComplete :: rest → s.engine.current = some i → s.engine.decided = some d →
        ∃ v t, InQuiet s.engine.frameInProgress (s.setLif { s.lif with reports := rest }) v
          ∧ AttemptEnded i (match d with | .collision => .collision | .aborted => .aborted) v t
          ∧ exec .cutCompleteReport s = .next t))

/-- FRAME_START_REPORT (R94, R95, R99): QUIET holds the guard where it stands, IDLE goes to QUIET with it held in full, AWAITING keeps the timer's time left and goes to RECEIVING, SENDING takes it without effect. -/
def Obligations.FrameStartByEngineState : Prop :=
  ∀ (rest : List Report) (s : State), s.porst = false → s.lif.reports = .frameStart :: rest →
    let u := s.setLif { s.lif with reports := rest }
    (s.engine.state = .quiet → exec .frameStartReport s = .next (u.setEngine
      { s.engine with frameInProgress := true, guard := { s.engine.guard with running := false } }))
    ∧ (s.engine.state = .idle → ∃ t, InQuiet true u t ∧ exec .frameStartReport s = .next t)
    ∧ (s.engine.state = .awaiting → exec .frameStartReport s = .next (u.setEngine
      { s.engine with
        state := .receiving, frameInProgress := true
        timer := { s.engine.timer with running := false, tickWaiting := false } }))
    ∧ (s.engine.state = .sending → exec .frameStartReport s = .next u)

/-- FRAME_COMPLETE_REPORT in RECEIVING (R101, R102): a frame of direction 0 or of another station is stray, one with the other sequence bit stale; either is counted and discarded, and the timer resumes with its time left. An accepted one is counted, the engine is in QUIET, and either its copy is claimed or, with nothing to copy, the attempt ends by bit 7 of its function. -/
def Obligations.FrameCompleteByClass : Prop :=
  ∀ (i : SlotNo) (f : FrameInfo) (rest : List Report) (s : State), s.porst = false →
    s.lif.reports = .frameComplete f :: rest → s.engine.state = .receiving → s.engine.current = some i →
    let u := s.setLif { s.lif with reports := rest }
    let back : Engine := { s.engine with
      state := .awaiting, frameInProgress := false, timer := { s.engine.timer with running := true } }
    (f.fromStation = false ∨ f.station ≠ (s.slot i).station →
      exec .frameCompleteReport s = .next
        ((u.setStats { s.stats with strayFrames := bump s.stats.strayFrames }).setEngine back))
    ∧ (f.fromStation = true → f.station = (s.slot i).station → f.sequence ≠ s.engine.seqInUse →
      exec .frameCompleteReport s = .next
        ((u.setStats { s.stats with staleFrames := bump s.stats.staleFrames }).setEngine back))
    ∧ (f.fromStation = true → f.station = (s.slot i).station → f.sequence = s.engine.seqInUse →
      ∃ v w, InQuiet false (u.setStats { s.stats with repliesAccepted := bump s.stats.repliesAccepted }) v
        ∧ w = v.setEngine { v.engine with
            timer := { s.engine.timer with running := false, tickWaiting := false }
            reply := some ⟨f.length, f.function, f.attention, f.check,
              decide ((s.slot i).replyBuffer = none ∧ f.length ≠ 0)⟩ }
        ∧ (∀ b, (s.slot i).replyBuffer = some b → f.length ≠ 0 →
            exec .frameCompleteReport s = .next { w.setEngine { w.engine with copyOutstanding := true } with
              engineClaim := some (.copy b f.length) })
        ∧ ((s.slot i).replyBuffer = none ∨ f.length = 0 →
            ∃ t, AttemptEnded i (if f.function.getLsbD 7 then .replyNegative else .replyOk) w t
              ∧ exec .frameCompleteReport s = .next t))

/-- BAD_FRAME_REPORT, and the end of a frame outside a reply wait (R94, R100, R109): in RECEIVING a bad reply is counted, the timer stopped, and the attempt ends BAD_REPLY in QUIET; in QUIET a frame that ends, well or badly, is counted as a stray and the guard restarts in full. Reasons BREAK and GAP also count as cut off. -/
def Obligations.BadFramesAndStrays : Prop :=
  ∀ (rest : List Report) (s : State), s.porst = false →
    let u := s.setLif { s.lif with reports := rest }
    (∀ reason, s.lif.reports = .badFrame reason :: rest →
      let cut := if reason = .brk ∨ reason = .gap then bump s.stats.cutOffReplies else s.stats.cutOffReplies
      (∀ i, s.engine.state = .receiving → s.engine.current = some i →
        ∃ v t, InQuiet false ((u.setStats { s.stats with
              badReplies := bump s.stats.badReplies, cutOffReplies := cut }).setEngine
            { s.engine with timer := { s.engine.timer with running := false, tickWaiting := false } }) v
          ∧ AttemptEnded i .badReply v t ∧ exec .badFrameReport s = .next t)
      ∧ (s.engine.state = .quiet →
        ∃ t, InQuiet false (u.setStats { s.stats with
            strayFrames := bump s.stats.strayFrames, cutOffReplies := cut }) t
          ∧ exec .badFrameReport s = .next t))
    ∧ (∀ f, s.lif.reports = .frameComplete f :: rest → s.engine.state = .quiet →
      ∃ t, InQuiet false (u.setStats { s.stats with strayFrames := bump s.stats.strayFrames }) t
        ∧ exec .frameCompleteReport s = .next t)

/-- REPLY_TIMER_EXPIRY (R99): the tick's claim that waits at the running timer's last tick in AWAITING is taken; the timer stops at 0, a no-reply is counted, and the attempt ends NO_REPLY in QUIET; that the last tick waits in the timer's flag for this row to take it is the model's (log 8, DEDUCED). GUARD_RUN_OUT (R94, R95, R102, R104): with no retry due the engine enters IDLE; with one due the next attempt begins with the sequence bit in use, or, if a cancel was requested meanwhile, the exchange ends with its last result and the engine enters IDLE; with a copy outstanding the run-out waits at 0, and it is taken from there once the copy is done (R102). So it is while an end of the last exchange has not been taken everywhere (log 6). Of the attempt that begins (AttemptBegun; R10), that a spacing run which had already reached 11 bit times counts for the comparator is log 18 (DEDUCED), and what the sending's other fields hold before the address byte is log 29 (DESIGN CHOICE). -/
def Obligations.TimerExpiryAndGuardRunOut : Prop :=
  (∀ (i : SlotNo) (s : State), s.porst = false → s.engine.state = .awaiting → s.engine.timer.running = true →
      s.engine.timer.tickWaiting = true → s.engine.current = some i →
      ∃ v t, InQuiet s.engine.frameInProgress ((s.setStats
            { s.stats with noReplies := bump s.stats.noReplies }).setEngine
              { s.engine with timer := ⟨0, false, false⟩ }) v
        ∧ AttemptEnded i .noReply v t ∧ exec .replyTimerExpiry s = .next t)
  ∧ (∀ s : State, s.porst = false → s.engine.state = .quiet → s.engine.frameInProgress = false →
      (s.engine.guard.running = true ∨ s.engine.guard.left = 0) →
      let u := s.setEngine { s.engine with guard := { s.engine.guard with left := 0, running := false } }
      (s.engine.copyOutstanding = true ∨ ¬ allTaken s → exec .guardRunOut s = .next u)
      ∧ (s.engine.copyOutstanding = false → allTaken s →
        (s.engine.retryDue = false → ∃ t, InIdle u t ∧ exec .guardRunOut s = .next t)
        ∧ ∀ i r, s.engine.retryDue = true → s.engine.current = some i → (s.slot i).lastResult = some r →
          let v := u.setEngine { u.engine with retryDue := false }
          ((s.slot i).cancelRequested = false →
            ∃ t, AttemptBegun i s.engine.seqInUse v t ∧ exec .guardRunOut s = .next t)
          ∧ ((s.slot i).cancelRequested = true →
            ∃ w t, ExchangeEnded i r v w ∧ InIdle w t ∧ exec .guardRunOut s = .next t)))

/-- LINE_RESET by the engine's state (R110): the guard is loaded in full from IDLE and QUIET; in SENDING the decided result becomes ABORTED, with a cut order if there was none; an attempt that waits for its reply or receives it ends ABORTED in QUIET, frame in progress left set in the latter case; in STUCK it is refused. That the cut (CutBegun) also gives up a fetch of its frame that waits at the arbiter is the model's (log 15, DESIGN CHOICE). -/
def Obligations.LineResetByEngineState : Prop :=
  ∀ (h : HostId) (s : State), portServes h s = true →
    let stopped := s.setEngine { s.engine with timer := { s.engine.timer with running := false, tickWaiting := false } }
    let aborted := s.setEngine { s.engine with decided := some .aborted }
    (s.engine.state = .idle → ∃ t, InQuiet false s t ∧ exec (.lineReset h) s = .next (answer h .ok t))
    ∧ (s.engine.state = .quiet →
      ∃ t, InQuiet s.engine.frameInProgress s t ∧ exec (.lineReset h) s = .next (answer h .ok t))
    ∧ (s.engine.state = .sending → s.engine.decided ≠ none →
      exec (.lineReset h) s = .next (answer h .ok aborted))
    ∧ (s.engine.state = .sending → s.engine.decided = none →
      (s.lif.tx = .released ∨ s.lif.tx = .cutting → exec (.lineReset h) s = .next (answer h .ok aborted))
      ∧ (s.lif.tx = .opening ∨ s.lif.tx = .characters →
        ∃ t, CutBegun s.lif.reports aborted t
          ∧ exec (.lineReset h) s = .next (answer h .ok t)))
    ∧ (∀ i, s.engine.state = .awaiting → s.engine.current = some i →
      ∃ v t, InQuiet false stopped v ∧ AttemptEnded i .aborted v t ∧ exec (.lineReset h) s = .next (answer h .ok t))
    ∧ (∀ i, s.engine.state = .receiving → s.engine.current = some i →
      ∃ v t, InQuiet true stopped v ∧ AttemptEnded i .aborted v t ∧ exec (.lineReset h) s = .next (answer h .ok t))
    ∧ (s.engine.state = .stuck → exec (.lineReset h) s = .next (answer h .notNow s))

/-- SET_SETTINGS (R160, R161): a record with a field out of range is refused; in IDLE it becomes the active record at once and SETTINGS goes to all hosts; in any other state it becomes the pending record, in place of any other. -/
def Obligations.SettingsAreAppliedOrStaged : Prop :=
  ∀ (h : HostId) (x : Settings) (s : State), portServes h s = true →
    [x.rateCode, x.stopBits, x.guardLength, x.defaultTimeout, x.defaultRetries, x.failureThreshold, x.agingLimit,
      x.poolLow, x.exchangeQuota, x.bufferQuota] = (List.range 10).map (fun k => (arg h (Fin.ofNat 24 k) s).toNat) →
    let inRange := x.rateCode ≤ 7 ∧ (x.stopBits = 1 ∨ x.stopBits = 2) ∧ 1 ≤ x.guardLength ∧ x.guardLength ≤ 8
      ∧ 1 ≤ x.defaultTimeout ∧ x.defaultTimeout ≤ 255 ∧ x.defaultRetries ≤ 7
      ∧ 1 ≤ x.failureThreshold ∧ x.failureThreshold ≤ 15 ∧ x.agingLimit ≤ 15 ∧ x.poolLow ≤ 95
      ∧ 1 ≤ x.exchangeQuota ∧ x.exchangeQuota ≤ 32 ∧ x.bufferQuota ≤ 96
    (¬ inRange → exec (.setSettings h) s = .next (answer h .badParam s))
    ∧ (inRange → s.engine.state = .idle →
      exec (.setSettings h) s = .next (answer h .ok (latchAll .settings { s with active := x })))
    ∧ (inRange → s.engine.state ≠ .idle →
      exec (.setSettings h) s = .next (answer h .pending { s with staged := some x }))

/-! ## The Line Scheduler -/

/-- SCHEDULER_RUN (R82, R83, R85 to R91, R96): outside IDLE a run ends at once; in IDLE with no grantable exchange nothing is granted; otherwise the one that goes before every other is granted, and its first attempt begins with its station's next sequence, 0 for a broadcast (R27). In IDLE the run waits while an end of the last exchange has not been taken everywhere (log 6). The Line Interface takes the send order as AttemptBegun says (R10): that a spacing run which had already reached 11 bit times counts for the comparator is log 18 (DEDUCED), and what the sending's other fields hold before the address byte is log 29 (DESIGN CHOICE). -/
def Obligations.RunGrantsTheFirstInOrder : Prop :=
  ∀ s : State, s.porst = false →
    let u := s.setHand { s.hand with runAsked := false }
    (s.engine.state ≠ .idle → exec .schedulerRun s = .next u)
    ∧ (s.engine.state = .idle → ¬ allTaken s → exec .schedulerRun s = .next s)
    ∧ (s.engine.state = .idle → allTaken s → (∀ i, ¬ Grantable s (s.slot i)) → exec .schedulerRun s = .next u)
    ∧ ∀ i, s.engine.state = .idle → allTaken s → Grantable s (s.slot i) →
      (∀ j, j ≠ i → Grantable s (s.slot j) → GoesBefore s (s.slot i) (s.slot j)) →
      ∃ v q t, Granted i u v
        ∧ ((s.slot i).station = 0 → q = false)
        ∧ (∀ n : StationNo, (s.slot i).station = n.address → q = (s.station n).nextSeq)
        ∧ AttemptBegun i q v t ∧ exec .schedulerRun s = .next t

/-! ## The Line Interface -/

/-- OPENING_BREAK_END and CHARACTER_SENT (R6 to R8, R10 to R12): with the echo right the frame goes on, in the order address, function, length, payload, check high, check low, the check running over all but its own two bytes; after the last character the frame is whole. A wrong or missing echo is a collision; that its cut also gives up a fetch of the frame that waits at the arbiter is the model's (log 15, DESIGN CHOICE). The marking part of the opening break is judged by its sample, which is kept (log 18); an OPENING_BREAK_END taken before that sample is judged by the present input, which is the model's choice (log 3). With a failed opening break, which ECHO_COLLISION reports, or outside OPENING, it changes nothing (log 4, DESIGN CHOICE). A received character under way when a character begins is not its echo; that this holds for the address character, at the end of the opening break, is the model's choice (log 37). CHARACTER_SENT waits for a payload byte that is not in place (log 16). The outputs (R2, R4, R13): the driver is enabled exactly outside RELEASED; the data output is marking in RELEASED, spacing for the first 16 bit times of an opening or cut-off break and marking after them, and shows a character as its start bit, its data bits, the least significant first, and its stop bits; up to the bit boundary at which a cut-off break begins it keeps its level. -/
def Obligations.FrameIsSentInOrder : Prop :=
  (∀ s : State,
    let d := s.lif.sending
    (driverEnable s = true ↔ s.lif.tx ≠ .released)
    ∧ (s.lif.tx = .released → txData s = true)
    ∧ (s.lif.tx = .opening → (txData s = true ↔ 16 * d.bit ≤ d.elapsed))
    ∧ (s.lif.tx = .cutting →
        (0 < d.lead → txData s = d.leadLevel) ∧ (d.lead = 0 → (txData s = true ↔ 16 * d.bit ≤ d.elapsed)))
    ∧ (s.lif.tx = .characters → ∀ j, j * d.bit ≤ d.elapsed → d.elapsed < (j + 1) * d.bit →
        (j = 0 → txData s = false) ∧ (∀ k, k < 8 → j = k + 1 → txData s = d.value.getLsbD k) ∧ (9 ≤ j → txData s = true)))
  ∧ ∀ s : State, s.porst = false →
    let d := s.lif.sending
    (∀ a : Byte, s.lif.tx = .opening → d.echoBreak = true → d.markFailed = false →
      (d.markChecked = true ∨ s.lif.input = true) →
      a.toNat = d.order.station.val + (if d.order.sequence then 32 else 0) →
      ∃ t, CharacterBegun 0 a (checkByte checkInit a) none s t ∧ exec .openingBreakEnd s = .next t)
    ∧ ((s.lif.tx ≠ .opening ∨ d.echoBreak = false ∨ d.markFailed = true
        ∨ (d.markChecked = false ∧ s.lif.input = false)) →
      exec .openingBreakEnd s = .next s)
    ∧ (s.lif.tx = .characters → d.index < d.order.length + 5 →
      (d.echo ≠ some (.good d.value) →
        ∃ t, CutBegun (s.lif.reports ++ [.collision]) s t ∧ exec .characterSent s = .next t)
      ∧ (d.echo = some (.good d.value) →
        (d.index = 0 → ∃ t, CharacterBegun 1 d.order.function (checkByte d.check d.order.function) d.nextPayload s t
          ∧ exec .characterSent s = .next t)
        ∧ (d.index = 1 → ∃ t, CharacterBegun 2 (natByte d.order.length)
            (checkByte d.check (natByte d.order.length)) d.nextPayload s t
          ∧ exec .characterSent s = .next t)
        ∧ (2 ≤ d.index → d.index < d.order.length + 2 →
          (∀ b, d.nextPayload = some b → ∃ t, CharacterBegun (d.index + 1) b (checkByte d.check b) none s t
            ∧ exec .characterSent s = .next t)
          ∧ (d.nextPayload = none → exec .characterSent s = .next s))
        ∧ (d.index = d.order.length + 2 →
          ∃ t, CharacterBegun (d.index + 1) (hiByte d.check) d.check d.nextPayload s t
            ∧ exec .characterSent s = .next t)
        ∧ (d.index = d.order.length + 3 →
          ∃ t, CharacterBegun (d.index + 1) (loByte d.check) d.check d.nextPayload s t
            ∧ exec .characterSent s = .next t)
        ∧ (d.index = d.order.length + 4 → exec .characterSent s = .next
          (s.setLif { s.lif with sending := { d with index := d.order.length + 5, echo := none } }))))

/-- ECHO_COLLISION, FRAME_SENT and CUT_BREAK_END (R11 to R13): a failed comparison gives one collision report and at once the cut; at the end of a whole frame the driver is released and the sent report given, at the end of a cut-off break the cut-complete report. The opening break has failed when it has not come back, or when its marking part was sampled spacing; what that sample found is remembered (log 18), and before it the present input stands for it (log 3). With none of this standing, nothing happens (log 4). That the cut also gives up a fetch of its frame that waits at the arbiter is the model's (log 15, DESIGN CHOICE; CutBegun); that the release of the driver drops a character which the receiver has under way is log 20 (DEDUCED; DriverReleased). -/
def Obligations.FrameEndsSentOrCut : Prop :=
  ∀ s : State, s.porst = false →
    let d := s.lif.sending
    let broken := ∃ r, s.lif.run = some r ∧ r.reached = true
    let markWrong := d.markFailed = true ∨ (d.markChecked = false ∧ s.lif.input = false)
    let wrong := (s.lif.tx = .opening ∧ (d.echoBreak = false ∨ markWrong))
        ∨ (s.lif.tx = .characters ∧ ((d.index < d.order.length + 5 ∧ d.echo ≠ some (.good d.value)) ∨ broken))
    let whole := d.index = d.order.length + 5 ∨ (d.index = d.order.length + 4 ∧ d.echo = some (.good d.value))
    (wrong → ∃ t, CutBegun (s.lif.reports ++ [.collision]) s t ∧ exec .echoCollision s = .next t)
    ∧ (¬ wrong → exec .echoCollision s = .next s)
    ∧ (s.lif.tx = .characters → whole → ∃ t, DriverReleased .sent s t ∧ exec .frameSent s = .next t)
    ∧ (s.lif.tx ≠ .characters ∨ ¬ whole → exec .frameSent s = .next s)
    ∧ (s.lif.tx = .cutting → ∃ t, DriverReleased .cutComplete s t ∧ exec .cutBreakEnd s = .next t)
    ∧ (s.lif.tx ≠ .cutting → exec .cutBreakEnd s = .next s)

/-- MARK_TO_SPACE_EDGE, SPACE_TO_MARK_EDGE and BREAK_END (R3, R5, R17, R19): a falling edge begins a spacing run and, with no character under way, a possible character; a rising edge ends the run, the break in IN_BREAK with the first gap timed, and begins a marking period in STUCK. What the levels before an edge have made due at the receiver is taken before the edge (log 35); in this the stuck limit is reached at the count of 40 or 44 bit times itself (CaughtUp and LineSettled; log 21, DESIGN CHOICE). An edge to the level that stands is none, and BREAK_END with the receiver outside IN_BREAK changes nothing, not even the input (log 4, DESIGN CHOICE). While the power-on reset input is held only the level follows. HALF_BIT_SAMPLE and GAP_LIMIT (R3, R17): a start edge that samples marking is dropped, and fails the frame if the gap limit had passed; one that samples spacing is valid and ends a gap. At the limit with no start edge under test the frame fails with reason GAP. -/
def Obligations.EdgesStartBitsAndGaps : Prop :=
  (∀ s : State,
      (s.porst = false → s.lif.input = true →
        (∃ u, CaughtUp s u ∧ u.lif.input = true ∧ exec .markToSpaceEdge s = .next (u.setLif { u.lif with
          input := false, run := some (freshRun s), marking := none
          char := some (u.lif.char.getD ⟨bitClocks s, s.active.stopBits, 0, false, true, 0, false⟩) }))
        ∧ (LineSettled s.lif → exec .markToSpaceEdge s = .next (s.setLif { s.lif with
          input := false, run := some (freshRun s), marking := none
          char := some (s.lif.char.getD ⟨bitClocks s, s.active.stopBits, 0, false, true, 0, false⟩) }))
        ∧ exec .spaceToMarkEdge s = .next s ∧ exec .breakEnd s = .next s)
      ∧ (s.porst = false → s.lif.input = false →
        exec .markToSpaceEdge s = .next s
        ∧ (∃ u, CaughtUp s u ∧ LineSettled u.lif ∧ u.porst = false ∧ u.lif.input = false
          ∧ exec .spaceToMarkEdge s = exec .spaceToMarkEdge u
          ∧ (u.lif.rx = .inBreak → exec .breakEnd s = exec .spaceToMarkEdge u)
          ∧ (u.lif.rx ≠ .inBreak → exec .breakEnd s = .next s))
        ∧ (LineSettled s.lif →
          (s.lif.rx = .inBreak →
            exec .spaceToMarkEdge s = .next (s.setLif { s.lif with
              input := true, run := none, rx := .assembling, gap := some ⟨2 * charClocks s, 0, false⟩ })
            ∧ exec .breakEnd s = .next (s.setLif { s.lif with
              input := true, run := none, rx := .assembling, gap := some ⟨2 * charClocks s, 0, false⟩ }))
          ∧ (s.lif.rx = .stuck → exec .spaceToMarkEdge s = .next (s.setLif { s.lif with
              input := true, run := none, marking := some ⟨charClocks s, 0⟩ }))
          ∧ (s.lif.rx = .hunt ∨ s.lif.rx = .assembling ∨ s.lif.rx = .echo →
            exec .spaceToMarkEdge s = .next (s.setLif { s.lif with input := true, run := none }))))
      ∧ (s.porst = true → exec .markToSpaceEdge s = .next (s.setLif { s.lif with input := false })
        ∧ exec .spaceToMarkEdge s = .next (s.setLif { s.lif with input := true })))
  ∧ (∀ s : State, s.porst = false →
      (∀ c, s.lif.char = some c → c.valid = false →
        (s.lif.input = false → exec .halfBitSample s = .next (s.setLif { s.lif with
          char := some { c with valid := true }, gap := if s.lif.rx = .assembling then none else s.lif.gap }))
        ∧ (s.lif.input = true → (s.lif.rx ≠ .assembling ∨ ∀ g, s.lif.gap = some g → g.passed = false) →
          exec .halfBitSample s = .next (s.setLif { s.lif with char := none }))
        ∧ (∀ g, s.lif.input = true → s.lif.rx = .assembling → s.lif.gap = some g → g.passed = true →
          ∃ t, FrameFailed .gap (s.setLif { s.lif with char := none }) t ∧ exec .halfBitSample s = .next t))
      ∧ (∀ g, s.lif.rx = .assembling → s.lif.gap = some g → g.passed = false →
        (s.lif.char = none → ∃ t, FrameFailed .gap s t ∧ exec .gapLimit s = .next t)
        ∧ (s.lif.char ≠ none →
          exec .gapLimit s = .next (s.setLif { s.lif with gap := some { g with passed := true } }))))

/-- BREAK_DETECTED (R5, R12, R19): in HUNT and ASSEMBLING the count goes to 0, the receiver to IN_BREAK and the frame-start report is given, after the bad-frame report BREAK of a frame being assembled; in ECHO it is for the comparator alone, a collision while characters are sent; in STUCK and in IN_BREAK nothing; R16 says that none occurs in IN_BREAK, and that the event then changes nothing is the model's (log 4, DESIGN CHOICE). What began with the run is no character, so none is under way after a detection in HUNT, ASSEMBLING and ECHO (R3; log 19, DEDUCED). That the cut of the collision also gives up a fetch of its frame that waits at the arbiter is the model's (log 15, DESIGN CHOICE; CutBegun). -/
def Obligations.BreakDetectionByReceiveState : Prop :=
  ∀ (r : SpacingRun) (s : State), s.porst = false → s.lif.run = some r → r.reached = false →
    let l : Lif := { s.lif with run := some { r with reached := true }, char := none }
    (s.lif.rx = .hunt ∨ s.lif.rx = .assembling → exec .breakDetected s = .next (s.setLif { l with
      rx := .inBreak, gap := none
      frame := { s.lif.frame with count := 0, check := 0xFFFF }
      reports := s.lif.reports
        ++ (if s.lif.rx = .assembling then [.badFrame .brk, .frameStart] else [.frameStart]) }))
    ∧ (s.lif.rx = .echo → s.lif.tx = .opening →
      exec .breakDetected s = .next (s.setLif { l with sending := { s.lif.sending with echoBreak := true } }))
    ∧ (s.lif.rx = .echo → s.lif.tx = .characters →
      ∃ t, CutBegun (s.lif.reports ++ [.collision]) (s.setLif l) t ∧ exec .breakDetected s = .next t)
    ∧ (s.lif.rx = .echo → s.lif.tx = .cutting → exec .breakDetected s = .next (s.setLif l))
    ∧ (s.lif.rx = .stuck ∨ s.lif.rx = .inBreak → exec .breakDetected s = .next s)

/-- CHARACTER_TAKEN and FRAMING_ERROR (R3, R8, R12, R14 to R17, R19): a character whose stop bits have all been sampled marking is taken whatever the input does then; one whose last sample is still to come needs the input marking (log 3). In ASSEMBLING a good character is stored at its place; a length above 64 fails the frame, the last character completes it or fails it by the check, any other begins the next gap, with half a bit time added to its limit because R17 times it from the character's nominal end (log 20, DEDUCED); a framing error fails it. In ECHO either goes to the comparator if it began after the previous sent character's end (R12), a later one in the place of an earlier one (log 33, DEDUCED); one that began before is no echo and is dropped (R12). In HUNT, STUCK and IN_BREAK either is discarded (R3, R19). A character whose stop bits all sampled marking has no framing error; one with a sample still to come is taken to have it (log 3). A FRAMING_ERROR taken while the input is spacing is the rising edge too (log 19), which in STUCK begins a marking period (R19) and in IN_BREAK ends the break (R5, R17). -/
def Obligations.CharactersAreTakenByReceiveState : Prop :=
  ∀ (c : RxChar) (s : State), s.porst = false → s.lif.char = some c → c.valid = true →
    let u := s.setLif { s.lif with char := none }
    let back := s.setLif { s.lif with char := none, input := true, run := if s.lif.input then s.lif.run else none }
    (∀ b : Byte, c.badStop = false → (s.lif.input = true ∨ (8 + c.stops) * c.bit + c.bit / 2 ≤ c.elapsed) →
      (s.lif.rx = .assembling → ∃ g, ByteStored b s.lif.frame g ∧
        (s.lif.frame.count = 2 → 64 < b.toNat →
          ∃ t, FrameFailed .length (u.setLif { u.lif with frame := g }) t ∧ exec (.characterTaken b) s = .next t)
        ∧ (3 ≤ s.lif.frame.count → s.lif.frame.count = s.lif.frame.length.toNat + 4 →
          (g.check = 0 → ∃ f : FrameInfo, f.station.val = g.address.toNat % 32 ∧ f.sequence = g.address.getLsbD 5
            ∧ f.attention = g.address.getLsbD 6 ∧ f.fromStation = g.address.getLsbD 7 ∧ f.function = g.function
            ∧ f.length = g.length.toNat ∧ hiByte f.check = g.checkHigh ∧ loByte f.check = g.checkLow
            ∧ exec (.characterTaken b) s = .next (u.setLif { u.lif with
                frame := g, rx := .hunt, gap := none, reports := s.lif.reports ++ [.frameComplete f] }))
          ∧ (g.check ≠ 0 →
            ∃ t, FrameFailed .check (u.setLif { u.lif with frame := g }) t ∧ exec (.characterTaken b) s = .next t))
        ∧ ((s.lif.frame.count < 2 ∨ s.lif.frame.count = 2 ∧ b.toNat ≤ 64
            ∨ 3 ≤ s.lif.frame.count ∧ s.lif.frame.count ≠ s.lif.frame.length.toNat + 4) →
          exec (.characterTaken b) s = .next (u.setLif { u.lif with
            frame := g, gap := some ⟨c.bit / 2 + 2 * charClocks s, 0, false⟩ })))
      ∧ (s.lif.rx = .echo → c.fresh = true → exec (.characterTaken b) s = .next (u.setLif
          { u.lif with sending := { s.lif.sending with echo := some (.good b) } }))
      ∧ (s.lif.rx = .echo → c.fresh = false → exec (.characterTaken b) s = .next u)
      ∧ (s.lif.rx = .hunt ∨ s.lif.rx = .stuck ∨ s.lif.rx = .inBreak → exec (.characterTaken b) s = .next u))
    ∧ ((c.badStop = true ∨ c.elapsed < (8 + c.stops) * c.bit + c.bit / 2) →
      (s.lif.rx = .assembling → ∃ t, FrameFailed .framing back t ∧ exec .framingError s = .next t)
      ∧ (s.lif.rx = .echo → c.fresh = true → exec .framingError s = .next (back.setLif
          { back.lif with sending := { s.lif.sending with echo := some .framing } }))
      ∧ (s.lif.rx = .echo → c.fresh = false → exec .framingError s = .next back)
      ∧ (s.lif.rx = .hunt → exec .framingError s = .next back)
      ∧ (s.lif.rx = .stuck ∨ s.lif.rx = .inBreak → s.lif.input = true → exec .framingError s = .next back)
      ∧ (s.lif.rx = .stuck → s.lif.input = false →
        exec .framingError s = .next (back.setLif { back.lif with marking := some ⟨charClocks s, 0⟩ }))
      ∧ (s.lif.rx = .inBreak → s.lif.input = false →
        exec .framingError s = .next (back.setLif { back.lif with
          rx := .assembling, gap := some ⟨2 * charClocks s, 0, false⟩ })))
    ∧ (c.badStop = false → (8 + c.stops) * c.bit + c.bit / 2 ≤ c.elapsed → exec .framingError s = .next s)

/-! ## Ticks -/

/-- STUCK_DETECTED and LINE_RECOVERED (R18, R19): with the transmitter RELEASED a stuck run takes the receiver from HUNT, IN_BREAK or ASSEMBLING to STUCK, with the stuck report and no other; a full marking period takes it back to HUNT with the recovery report. STUCK_REPORT and RECOVERY_REPORT (R107, R108): the stuck event is counted and LINE_FAULT latched at all hosts; but for SENDING the engine parks in STUCK, guard stopped, and an attempt that waited for its reply ends LINE_STUCK; recovery leads to QUIET with a full guard. -/
def Obligations.StuckLineAndItsRecovery : Prop :=
  (∀ s : State, s.porst = false →
      (s.lif.tx = .released → s.lif.run ≠ none → (s.lif.rx = .hunt ∨ s.lif.rx = .inBreak ∨ s.lif.rx = .assembling) →
        exec .stuckDetected s = .next (s.setLif { s.lif with
          rx := .stuck, gap := none, char := none, marking := none, reports := s.lif.reports ++ [.stuck] }))
      ∧ (s.lif.tx ≠ .released → exec .stuckDetected s = .next s)
      ∧ (s.lif.rx = .stuck → s.lif.marking ≠ none → exec .lineRecovered s = .next (s.setLif { s.lif with
          rx := .hunt, marking := none, reports := s.lif.reports ++ [.recovery] })))
  ∧ (∀ (rest : List Report) (s : State), s.porst = false →
      (s.lif.reports = .stuck :: rest →
        let u := latchAll .lineFault ((s.setLif { s.lif with reports := rest }).setStats
          { s.stats with stuckEvents := bump s.stats.stuckEvents })
        let parked : Engine := { s.engine with
          state := .stuck, frameInProgress := false, guard := { s.engine.guard with running := false } }
        (s.engine.state = .quiet ∨ s.engine.state = .idle → exec .stuckReport s = .next (u.setEngine parked))
        ∧ (s.engine.state = .sending → exec .stuckReport s = .next u)
        ∧ (∀ i, s.engine.state = .awaiting ∨ s.engine.state = .receiving → s.engine.current = some i →
          ∃ t, AttemptEnded i .lineStuck (u.setEngine { parked with
              timer := { s.engine.timer with running := false, tickWaiting := false } }) t
            ∧ exec .stuckReport s = .next t))
      ∧ (s.lif.reports = .recovery :: rest → s.engine.state = .stuck →
        ∃ t, InQuiet false (s.setLif { s.lif with reports := rest }) t ∧ exec .recoveryReport s = .next t))

/-- TICK (R95, R99, R119, R132, R165): with no earlier tick's claim waiting, the prescaler begins its next count, the running reply timer loses one in AWAITING alone, every lease and every ARMED countdown loses one, and those at their last tick wait for the claim that takes their expiry or due; nothing else changes. A timer at which this tick's claim has been taken ahead stands: REPLY_TIMER_EXPIRY, LEASE_EXPIRY and POLL_DUE with no tick waiting take the coming tick's claim at their one timer, once, so that any other claim may come between two timers of one tick (R119, R132). That the last tick waits in the timer, and that a claim may be taken ahead, is the model's (log 8). -/
def Obligations.TickLowersEveryTimer : Prop :=
  (∀ s : State, s.porst = false → s.engine.timer.tickWaiting = false →
    (∀ n k, (s.station n).hold = some k → k.tickWaiting = false) → (∀ e, (s.entry e).tickWaiting = false) →
    ∃ t, exec .tick s = .next t
      ∧ t.prescaler = ⟨0, s.prescaler.phase + 1⟩
      ∧ (s.engine.state ≠ .awaiting ∨ s.engine.timer.running = false ∨ s.taken.reply = true → t.engine = s.engine)
      ∧ (s.engine.state = .awaiting → s.engine.timer.running = true → s.taken.reply = false → t.engine = { s.engine with
          timer := if 1 < s.engine.timer.left then { s.engine.timer with left := s.engine.timer.left - 1 }
            else { s.engine.timer with tickWaiting := true } })
      ∧ (∀ n, (s.station n).hold = none ∨ tget s.taken.leases n = true → t.station n = s.station n)
      ∧ (∀ n k, (s.station n).hold = some k → tget s.taken.leases n = false → t.station n = { s.station n with
          hold := some (if 1 < k.lease.toNat then { k with lease := k.lease - 1 } else { k with tickWaiting := true }) })
      ∧ (∀ e, (s.entry e).state ≠ .armed ∨ tget s.taken.entries e = true → t.entry e = s.entry e)
      ∧ (∀ e, (s.entry e).state = .armed → tget s.taken.entries e = false → t.entry e =
          if 1 < (s.entry e).countdown.toNat then { s.entry e with countdown := (s.entry e).countdown - 1 }
          else { s.entry e with tickWaiting := true })
      ∧ t.taken.reply = false ∧ (∀ n, tget t.taken.leases n = false) ∧ (∀ e, tget t.taken.entries e = false)
      ∧ { t with
          stations := s.stations, entries := s.entries, engine := s.engine, prescaler := s.prescaler
          taken := s.taken } = s)
  ∧ (∀ s : State, s.porst = false → s.engine.timer.tickWaiting = false →
    (s.taken.reply = true → exec .replyTimerExpiry s = .next s)
    ∧ (s.taken.reply = false →
      let u := s.setTaken { s.taken with reply := true }
      (s.engine.state ≠ .awaiting ∨ s.engine.timer.running = false → exec .replyTimerExpiry s = .next u)
      ∧ (s.engine.state = .awaiting → s.engine.timer.running = true → 1 < s.engine.timer.left →
        exec .replyTimerExpiry s = .next (u.setEngine
          { s.engine with timer := { s.engine.timer with left := s.engine.timer.left - 1 } }))
      ∧ (∀ i, s.engine.state = .awaiting → s.engine.timer.running = true → s.engine.timer.left ≤ 1 →
        s.engine.current = some i →
        ∃ v t, InQuiet s.engine.frameInProgress ((u.setStats
              { s.stats with noReplies := bump s.stats.noReplies }).setEngine
                { s.engine with timer := ⟨0, false, false⟩ }) v
          ∧ AttemptEnded i .noReply v t ∧ exec .replyTimerExpiry s = .next t)))
  ∧ (∀ (n : StationNo) (s : State), s.porst = false → (∀ k, (s.station n).hold = some k → k.tickWaiting = false) →
    let u := s.setTaken { s.taken with leases := tput s.taken.leases n true }
    (tget s.taken.leases n = true → exec (.leaseExpiry n) s = .next s)
    ∧ (tget s.taken.leases n = false →
      ((s.station n).hold = none → exec (.leaseExpiry n) s = .next u)
      ∧ ∀ k, (s.station n).hold = some k →
        (1 < k.lease.toNat → exec (.leaseExpiry n) s = .next (u.setStation n
          { s.station n with hold := some { k with lease := k.lease - 1 } }))
        ∧ (k.lease.toNat ≤ 1 →
          ∃ t, HandedOver n (latch k.holder .holdExpired u) t ∧ exec (.leaseExpiry n) s = .next t)))
  ∧ ∀ (e : EntryNo) (s : State), s.porst = false → (s.entry e).tickWaiting = false →
    let u := s.setTaken { s.taken with entries := tput s.taken.entries e true }
    (tget s.taken.entries e = true → exec (.pollDue e) s = .next s)
    ∧ (tget s.taken.entries e = false →
      ((s.entry e).state ≠ .armed → exec (.pollDue e) s = .next u)
      ∧ ((s.entry e).state = .armed →
        ((s.entry e).countdown ≠ 1 → exec (.pollDue e) s = .next (u.setEntry e
          { s.entry e with countdown := (s.entry e).countdown - 1 }))
        ∧ ((s.entry e).countdown = 1 →
          ∃ t, FellDue e (u.setEntry e { s.entry e with countdown := 0 }) t ∧ exec (.pollDue e) s = .next t)))

/-- One bit time is 1536, 768, 384, 256, 128, 64, 32 or 16 clock periods for the rate codes 0 to 7, and a character time 10 bit times with one stop bit and 11 with two (R1, R167). With no command waiting, no event due and no access that can be served at a port, one clock period passes: the prescaler, short of the end of its count of 14746 or 14745 periods, counts one (R165); in QUIET a running guard counts one, and a character time at the end of each, while a guard that is held, or stands at 0, stays with all of the engine (R94); each measure of the Line Interface counts (R1, R3 to R5, R12, R13, R17 to R19); a claim in service at the arbiter counts the clock periods that it still holds the memory and ends with the last (R51). Nothing else moves. No measure of the line, of the transmitter or of the guard that can bring its event has run its time in such a state. Five points are the model's own and no rule's words: that a clock period passes then (log 2, DESIGN CHOICE); that in ASSEMBLING a character settled without a report begins a gap, running since its nominal end (log 19, DEDUCED from R3 and R17); that the stuck limit is reached at the count itself (LineSettled; log 21, DESIGN CHOICE); that a character waits for its payload byte (TransmitSettled; log 16, DEDUCED); and that a service, its work done at its beginning, is counted down by clock periods with READY withheld (log 14, DESIGN CHOICE). -/
def Obligations.IdleClockPeriodCounts : Prop :=
  (∀ s : State,
    (∀ code clocks, (code, clocks) ∈ [(0, 1536), (1, 768), (2, 384), (3, 256), (4, 128), (5, 64), (6, 32), (7, 16)] →
      s.active.rateCode = code → bitClocks s = clocks)
    ∧ (s.active.stopBits = 1 → charBits s = 10) ∧ (s.active.stopBits = 2 → charBits s = 11)
    ∧ charClocks s = charBits s * bitClocks s)
  ∧ ∀ s : State, s.porst = false → s.pending = [] → dueEvent s = none →
    (LineSettled s.lif ∧ TransmitSettled s.lif
      ∧ (s.engine.state = .quiet → s.engine.frameInProgress = false → s.engine.copyOutstanding = false → allTaken s →
        0 < s.engine.guard.left))
    ∧ ((∀ h, (s.port h).phase = .serving → (s.port h).claim = none → ¬ AccessInService h s → (s.port h).waiting = []) →
      ∃ t, step s = .next t
      ∧ s.prescaler.count < (if s.prescaler.phase.val % 2 = 0 then 14746 else 14745)
      ∧ t.prescaler = { s.prescaler with count := s.prescaler.count + 1 }
      ∧ (s.engine.state ≠ .quiet ∨ s.engine.guard.running = false ∨ s.engine.guard.left = 0 → t.engine = s.engine)
      ∧ (s.engine.state = .quiet → s.engine.guard.running = true → 0 < s.engine.guard.left →
          t.engine = { s.engine with
            guard := if s.engine.guard.clocks + 1 < s.engine.guard.perChar then
                { s.engine.guard with clocks := s.engine.guard.clocks + 1 }
              else { s.engine.guard with left := s.engine.guard.left - 1, clocks := 0 } })
      ∧ LineClocked (2 * charClocks s) s.lif t.lif
      ∧ (s.service = none → t.service = none)
      ∧ (∀ v, s.service = some v → t.service = if v.left ≤ 1 then none else some { v with left := v.left - 1 })
      ∧ { t with prescaler := s.prescaler, engine := s.engine, lif := s.lif, service := s.service } = s)

/-! ## Resets -/

/-- POWER_ON_RESET and POWER_ON_RESET_RELEASE (R5, R177): every block takes its power-on values and no port serves; at the release the ports serve, those whose own reset pin is held apart, and a spacing input begins a spacing run. The input pins stand as they are (log 23, DEDUCED). Among the values of State.reset, these are the model's and no rule's, since the manual gives none: the data byte 0x00 of a port (log 12), no claim and no service at the arbiter (log 14), and what the sending, the character, the gap, the marking period, the two running checks and the kept reply hold at rest (log 29), all DESIGN CHOICES; so is the moment from which the guard and the prescaler count (log 1). The fields that are the model's own, for what waits between two claims, are empty (logs 5, 6, 8, 22 and 36). -/
def Obligations.PowerOnResetSetsEveryBlock : Prop :=
  (∀ s : State, ∃ t, exec .powerOnReset s = .next t
    ∧ t.porst = true ∧ t.pending = s.pending ∧ t.lif = { State.reset.lif with input := s.lif.input }
    ∧ (∀ h, t.port h = { State.reset.port h with
        pin := (s.port h).pin, phase := if (s.port h).pin then .held else .serving })
    ∧ (∀ h, portServes h t = false)
    ∧ { t with porst := false, pending := [], lif := State.reset.lif, ports := State.reset.ports } = State.reset)
  ∧ ∀ s : State, s.porst = true → ∃ t, exec .powerOnResetRelease s = .next t
    ∧ t.lif = { s.lif with run := if s.lif.input then none else some (freshRun s) }
    ∧ (∀ h, portServes h t = true ↔ (s.port h).phase = .serving ∧ (s.port h).claim = none
        ∧ ¬ AccessInService h s ∧ (s.port h).waiting = [])
    ∧ { t with porst := true, lif := s.lif } = s

/-- HOST_PORT_RESET_ASSERT and HOST_PORT_RESET_RELEASE (R54, R175, R176): an assertion abandons the accesses that wait, withdraws the waiting claim and stops service, hands nothing to any block, and is no event while the pin is held; a claim in service at that moment has done its work at the memory, and nothing of it is returned: data, result and parameter area are as before it, and it holds the memory for the clock periods that it has left (R51; log 14). A release starts the parts, the Exchange Table's first. While the power-on reset input is held, a release leaves the port serving at its power-on values, which is the model's reading of R175 and R177 (log 23, DEDUCED). An edge during a release waits for its end (log 22, DEDUCED). -/
def Obligations.ResetPinStopsAndStartsThePort : Prop :=
  ∀ (h : HostId) (s : State),
    ((s.port h).pin = true → exec (.hostPortResetAssert h) s = .next s)
    ∧ ((s.port h).pin = false → (s.port h).phase = .serving →
      (¬ AccessInService h s → exec (.hostPortResetAssert h) s = .next (s.setPort h
        { s.port h with pin := true, phase := .held, claim := none, waiting := [] }))
      ∧ (∀ v left, s.service = some ⟨.port h v, left⟩ → exec (.hostPortResetAssert h) s = .next
          { s.setPort h { s.port h with
              pin := true, phase := .held, claim := none, waiting := []
              data := v.data, result := v.result, params := v.params } with
            service := some ⟨.abandoned, left⟩ }))
    ∧ ((s.port h).pin = false → exec (.hostPortResetRelease h) s = .next s)
    ∧ ((s.port h).pin = true → (s.port h).phase = .held → exec (.hostPortResetRelease h) s = .next (s.setPort h
        { s.port h with pin := false, phase := if s.porst then .serving else .releasing .xtab }))
    ∧ (∀ p, (s.port h).phase = .releasing p →
      ((s.port h).pin = false → exec (.hostPortResetAssert h) s = .next (s.setPort h
        { s.port h with pin := true, edges := (s.port h).edges + 1, waiting := [] }))
      ∧ ((s.port h).pin = true → exec (.hostPortResetRelease h) s = .next (s.setPort h
        { s.port h with pin := false, edges := (s.port h).edges + 1 })))

/-- XTAB_RESET_PART (R79): of host h's slots the QUEUED and DONE ones go to FREE, the former's own buffers unlent, an ACTIVE one becomes ORPHAN, an ORPHAN stays; the counters and every other host's slots stand; the Buffer Pool's part comes next. -/
def Obligations.ReleaseAtTheExchangeTable : Prop :=
  ∀ (h : HostId) (s : State), s.porst = false → (s.port h).phase = .releasing .xtab →
    ∃ t, exec (.xtabResetPart h) s = .next t
      ∧ t.port h = { s.port h with phase := .releasing .bpool } ∧ (∀ k, k ≠ h → t.port k = s.port k)
      ∧ (∀ i, t.slot i =
          if (s.slot i).owner ≠ h then s.slot i
          else match (s.slot i).state with
            | .queued => freeExchange
            | .done => freeExchange
            | .active => { s.slot i with state := .orphan }
            | .orphan => s.slot i
            | .free => s.slot i)
      ∧ (let freed (b : BufNo) := ∃ x i, s.attachment b = some x ∧ x.attacher = .slot i ∧ (s.slot i).owner = h
            ∧ (s.slot i).state = .queued ∧ (s.slot i).origin = .host
         (∀ b, freed b → t.attachment b = none ∧ t.holder b = (if s.holder b = .orphaned then .free else s.holder b))
         ∧ (∀ b, ¬ freed b → t.attachment b = s.attachment b ∧ t.holder b = s.holder b)
         ∧ ∃ back, t.freeList = s.freeList ++ back ∧ ∀ b, b ∈ back ↔ freed b ∧ s.holder b = .orphaned)
      ∧ { t with
          ports := s.ports, slots := s.slots, attached := s.attached, holders := s.holders, freeList := s.freeList } = s

/-- BPOOL_RESET_PART (R53): a buffer of host h whose attacher stays on the line becomes ORPHANED with its attachment kept; every other buffer of h becomes FREE with no attachment, all of these joining the free list's tail in ascending order; h's owned count is 0, and the Poll List's part comes next. -/
def Obligations.ReleaseAtTheBufferPool : Prop :=
  ∀ (h : HostId) (s : State), s.porst = false → (s.port h).phase = .releasing .bpool →
    let runs (i : SlotNo) := (s.slot i).state = .active ∨ (s.slot i).state = .orphan
    let stays (b : BufNo) := ∃ x, s.attachment b = some x
      ∧ ((∃ i, x.attacher = .slot i ∧ runs i)
        ∨ ∃ e i, x.attacher = .entry e ∧ (s.entry e).inst = some i ∧ (s.slot i).origin = .poll e ∧ runs i)
    ∃ t, exec (.bpoolResetPart h) s = .next t
      ∧ t.port h = { s.port h with phase := .releasing .plst } ∧ (∀ k, k ≠ h → t.port k = s.port k)
      ∧ (∀ b, s.holder b = .host h → stays b → t.holder b = .orphaned ∧ t.attachment b = s.attachment b)
      ∧ (∀ b, s.holder b = .host h → ¬ stays b → t.holder b = .free ∧ t.attachment b = none)
      ∧ (∀ b, s.holder b ≠ .host h → t.holder b = s.holder b ∧ t.attachment b = s.attachment b)
      ∧ ownedCount h t = 0
      ∧ (∃ back, t.freeList = s.freeList ++ back ∧ back.Pairwise (· < ·)
          ∧ ∀ b, b ∈ back ↔ s.holder b = .host h ∧ ¬ stays b)
      ∧ { t with ports := s.ports, attached := s.attached, holders := s.holders, freeList := s.freeList } = s

/-- PLST_RESET_PART (R142): of host h's entries an ARMED one whose instance stays on the line becomes STOPPING with unread change clear, any other ARMED one UNUSED, a STOPPING one stays with unread change clear; entries of other hosts stand; the Station Table's part comes next. An instance end of h's that waits at the list is taken first (log 7). -/
def Obligations.ReleaseAtThePollList : Prop :=
  ∀ (h : HostId) (s : State), s.porst = false → (s.port h).phase = .releasing .plst →
    ((∃ d, s.hand.instEnd = some d ∧ (s.entry d.entry).owner = h) →
      ∀ u, exec .instanceEnd s = .next u → exec (.plstResetPart h) s = exec (.plstResetPart h) u)
    ∧ ((∀ d, s.hand.instEnd = some d → (s.entry d.entry).owner ≠ h) →
      ∃ t, exec (.plstResetPart h) s = .next t
        ∧ t.port h = { s.port h with phase := .releasing .stab } ∧ (∀ k, k ≠ h → t.port k = s.port k)
        ∧ (∀ e,
          let runs := ∃ i, (s.entry e).inst = some i ∧ (s.slot i).origin = .poll e
            ∧ ((s.slot i).state = .active ∨ (s.slot i).state = .orphan)
          ((s.entry e).owner ≠ h → t.entry e = s.entry e)
          ∧ ((s.entry e).owner = h →
            ((s.entry e).state = .unused → t.entry e = s.entry e)
            ∧ ((s.entry e).state = .stopping → t.entry e = { s.entry e with unreadChange := false })
            ∧ ((s.entry e).state = .armed → runs →
              t.entry e = { s.entry e with state := .stopping, unreadChange := false, tickWaiting := false })
            ∧ ((s.entry e).state = .armed → ¬ runs → t.entry e = unusedEntry)))
        ∧ { t with ports := s.ports, entries := s.entries } = s)

/-- STAB_RESET_PART (R38, R126): host h leaves every subscriber set and every wait list and its unread-change flags are clear; then every station it held is handed over, in ascending station order, each as R118 gives: to the first waiter below its limit, skipped waiters told HOLD_EXPIRED and the new holder HOLD_GRANTED, or left without a hold part, a scheduler run asked for. State, failure count, next sequence and attention of every station stand, and so do the other hosts' subscriptions and flags and their holds, but for h's wait; the Completion Queues' part comes next. That a hand-over's new lease has no tick waiting is log 9. -/
def Obligations.ReleaseAtTheStationTable : Prop :=
  ∀ (h : HostId) (s : State), s.porst = false → (s.port h).phase = .releasing .stab →
    ∃ u v t, exec (.stabResetPart h) s = .next t
      ∧ (∀ n, u.station n = { s.station n with
          subscribers := tput (s.station n).subscribers h false, unread := tput (s.station n).unread h false
          hold := (s.station n).hold.map fun k => { k with waiters := k.waiters.filter fun w => decide (w.host ≠ h) } })
      ∧ { u with stations := s.stations } = s
      ∧ HandedInTurn h (List.finRange 31) u v
      ∧ t = v.setPort h { s.port h with phase := .releasing .cq }
      ∧ heldCount h t = 0
      ∧ (∀ n, ∃ hold, t.station n = { u.station n with hold := hold })
      ∧ (∀ n, (∀ k, (s.station n).hold = some k → k.holder ≠ h) → t.station n = u.station n)
      ∧ ((∃ n k, (s.station n).hold = some k ∧ k.holder = h) → t.hand = { s.hand with runAsked := true })
      ∧ ((∀ n k, (s.station n).hold = some k → k.holder ≠ h) → t.hand = s.hand ∧ t.notices = s.notices)
      ∧ { t with ports := s.ports, stations := s.stations, notices := s.notices, hand := s.hand } = s

/-- CQ_RESET_PART, NCTL_RESET_PART and PORT_RESET_PART (R150, R157, R176): the queue is emptied without a post, the latches cleared and every source masked, then the port takes its own values and serves again, first the accesses begun since the release (log 36), unless pin edges waited for this (log 22). -/
def Obligations.ReleaseAtQueueNoticesAndPort : Prop :=
  ∀ (h : HostId) (s : State), s.porst = false →
    ((s.port h).phase = .releasing .cq →
      exec (.cqResetPart h) s = .next ((s.setQueue h []).setPort h { s.port h with phase := .releasing .nctl }))
    ∧ ((s.port h).phase = .releasing .nctl →
      exec (.nctlResetPart h) s
        = .next ((s.setNotice h ⟨0x00, 0xFF⟩).setPort h { s.port h with phase := .releasing .port }))
    ∧ ((s.port h).phase = .releasing .port → ∃ t, exec (.portResetPart h) s = .next t
      ∧ (∀ k, k ≠ h → t.port k = s.port k) ∧ { t with ports := s.ports } = s
      ∧ (t.port h).select = 0xFF ∧ (t.port h).windowRefused = false ∧ (∀ k, arg h k t = 0x00)
      ∧ (t.port h).result = .ok ∧ (t.port h).claim = none ∧ (t.port h).data = (s.port h).data
      ∧ (t.port h).pin = (s.port h).pin ∧ (t.port h).waiting = (s.port h).waiting
      ∧ ((s.port h).edges = 0 → (t.port h).phase = .serving ∧ (t.port h).edges = 0
          ∧ ((s.port h).waiting = [] → ¬ AccessInService h s → portServes h t = true))
      ∧ ((s.port h).edges = 1 → (t.port h).phase = .held)
      ∧ (2 ≤ (s.port h).edges → (t.port h).phase = .releasing .xtab ∧ (t.port h).edges = (s.port h).edges - 2))
    ∧ (∀ p, (s.port h).phase = .releasing p → portServes h s = false)

end
end

