-- ==== Sys2Proof/Laws/Memory.lean ====
section
/-! SUPPORT. The laws of the buffer memory: a read after a write, and the canonical form that every memory operation keeps. -/

namespace Sys2Proof.Machine

/-- Every address a memory lists is above a bound. -/
def above (a : Nat) (m : Memory) : Prop := ∀ c ∈ m, a < c.1

theorem memRead_above {a : Nat} {m : Memory} (h : above a m) : memRead m a = Config.unwrittenByte := by
  induction m with
  | nil => rfl
  | cons c m ih =>
    have h1 : a < c.1 := h c (by simp)
    have h2 : above a m := fun x hx => h x (by simp [hx])
    simp [memRead, Nat.ne_of_gt h1, ih h2]

theorem memRead_memCons (a : Nat) (v : Byte) (m : Memory) (b : Nat) (h : above a m) :
    memRead (memCons a v m) b = if b = a then v else memRead m b := by
  unfold memCons
  by_cases hv : v = Config.unwrittenByte
  · by_cases hb : b = a
    · subst hb; simp [hv, memRead_above h]
    · simp [hv, hb]
  · by_cases hb : b = a
    · subst hb; simp [hv, memRead]
    · have hb2 : ¬ a = b := fun e => hb e.symm
      simp [hv, memRead, hb, hb2]

/-- A read after a write: the byte written at its address, the old byte at every other. -/
theorem memRead_memWrite (m : Memory) (a : Nat) (v : Byte) (b : Nat) (hm : m.Pairwise (fun x y => x.1 < y.1)) :
    memRead (memWrite m a v) b = if b = a then v else memRead m b := by
  induction m with
  | nil => exact memRead_memCons a v [] b (by simp [above])
  | cons c m ih =>
    rw [List.pairwise_cons] at hm
    obtain ⟨h1, h2⟩ := hm
    unfold memWrite
    by_cases hlt : a < c.1
    · rw [if_pos hlt]
      apply memRead_memCons
      intro x hx
      rcases List.mem_cons.mp hx with rfl | hx
      · exact hlt
      · exact Nat.lt_trans hlt (h1 x hx)
    · rw [if_neg hlt]
      by_cases heq : a = c.1
      · rw [if_pos heq, memRead_memCons a v m b (fun x hx => heq ▸ h1 x hx)]
        by_cases hb : b = a
        · simp [hb]
        · have hb2 : ¬ c.1 = b := fun e => hb (by omega)
          simp [hb, memRead, hb2]
      · rw [if_neg heq]
        simp only [memRead]
        by_cases hc : c.1 = b
        · have hb : ¬ b = a := by omega
          simp [hc, hb]
        · simp [hc, ih h2]

theorem above_memCons {a b : Nat} {v : Byte} {m : Memory} (ha : b < a) (h : above b m) : above b (memCons a v m) := by
  unfold memCons
  split
  · exact h
  · intro x hx
    rcases List.mem_cons.mp hx with rfl | hx
    · exact ha
    · exact h x hx

theorem above_memWrite {a b : Nat} {v : Byte} {m : Memory} (ha : b < a) (h : above b m) : above b (memWrite m a v) := by
  induction m with
  | nil => exact above_memCons ha h
  | cons c m ih =>
    have h2 : above b m := fun x hx => h x (by simp [hx])
    unfold memWrite
    split
    · exact above_memCons ha h
    · split
      · exact above_memCons ha h2
      · intro x hx
        rcases List.mem_cons.mp hx with rfl | hx
        · exact h _ (by simp)
        · exact ih h2 x hx

theorem memCons_wf {a : Nat} {v : Byte} {m : Memory} (ha : a < 96 * Config.bufferBytes) (hab : above a m)
    (hm : Memory.wf m) : Memory.wf (memCons a v m) := by
  unfold memCons
  split
  · exact hm
  · next hv =>
    refine ⟨List.pairwise_cons.mpr ⟨hab, hm.1⟩, ?_⟩
    intro c hc
    rcases List.mem_cons.mp hc with rfl | hc
    · exact ⟨hv, ha⟩
    · exact hm.2 c hc

theorem wf_tail {c : Host.Cell} {m : Memory} (hm : Memory.wf (c :: m)) : Memory.wf m :=
  ⟨(List.pairwise_cons.mp hm.1).2, fun x hx => hm.2 x (by simp [hx])⟩

/-- A write inside the buffers keeps the canonical form. -/
theorem memWrite_wf {m : Memory} {a : Nat} {v : Byte} (ha : a < 96 * Config.bufferBytes) (hm : Memory.wf m) :
    Memory.wf (memWrite m a v) := by
  induction m with
  | nil => exact memCons_wf ha (by simp [above]) hm
  | cons c m ih =>
    have ht := wf_tail hm
    have habv : above c.1 m := (List.pairwise_cons.mp hm.1).1
    unfold memWrite
    by_cases hlt : a < c.1
    · rw [if_pos hlt]
      refine memCons_wf ha ?_ hm
      intro x hx
      rcases List.mem_cons.mp hx with rfl | hx
      · exact hlt
      · exact Nat.lt_trans hlt (habv x hx)
    · rw [if_neg hlt]
      by_cases heq : a = c.1
      · rw [if_pos heq]
        exact memCons_wf ha (fun x hx => heq ▸ habv x hx) ht
      · rw [if_neg heq]
        have hw := ih ht
        refine ⟨List.pairwise_cons.mpr ⟨above_memWrite (by omega) habv, hw.1⟩, ?_⟩
        intro x hx
        rcases List.mem_cons.mp hx with rfl | hx
        · exact hm.2 _ (by simp)
        · exact hw.2 x hx

/-- A run of bytes written inside the buffers keeps the canonical form. -/
theorem memWriteBytes_wf (bytes : List Byte) (m : Memory) (a : Nat) (ha : a + bytes.length ≤ 96 * Config.bufferBytes)
    (hm : Memory.wf m) : Memory.wf (memWriteBytes m a bytes) := by
  induction bytes generalizing m a with
  | nil => exact hm
  | cons v vs ih =>
    simp only [List.length_cons] at ha
    exact ih _ _ (by omega) (memWrite_wf (by omega) hm)

theorem memWrite_pairwise {m : Memory} (a : Nat) (v : Byte) (hm : m.Pairwise (fun x y => x.1 < y.1)) :
    (memWrite m a v).Pairwise (fun x y => x.1 < y.1) := by
  induction m with
  | nil => simp only [memWrite, memCons]; split <;> simp
  | cons c m ih =>
    rw [List.pairwise_cons] at hm
    obtain ⟨h1, h2⟩ := hm
    unfold memWrite memCons
    split
    · next hlt =>
      split
      · exact List.pairwise_cons.mpr ⟨h1, h2⟩
      · refine List.pairwise_cons.mpr ⟨?_, List.pairwise_cons.mpr ⟨h1, h2⟩⟩
        intro x hx
        rcases List.mem_cons.mp hx with rfl | hx
        · exact hlt
        · exact Nat.lt_trans hlt (h1 x hx)
    · split
      · next heq =>
        split
        · exact h2
        · exact List.pairwise_cons.mpr ⟨fun x hx => heq ▸ h1 x hx, h2⟩
      · exact List.pairwise_cons.mpr ⟨above_memWrite (by omega) h1, ih h2⟩

/-- A read after a run of bytes is written: the byte of the run at its place, the old byte at every other address. -/
theorem memRead_memWriteBytes (bytes : List Byte) (m : Memory) (a b : Nat)
    (hm : m.Pairwise (fun x y => x.1 < y.1)) :
    memRead (memWriteBytes m a bytes) b =
      if a ≤ b then (bytes[b - a]?).getD (memRead m b) else memRead m b := by
  induction bytes generalizing m a with
  | nil => simp [memWriteBytes]
  | cons v vs ih =>
    rw [memWriteBytes, ih _ _ (memWrite_pairwise a v hm), memRead_memWrite m a v b hm]
    by_cases h1 : a + 1 ≤ b
    · have h2 : a ≤ b := by omega
      have h3 : b - a = (b - (a + 1)) + 1 := by omega
      have h4 : ¬ b = a := by omega
      simp [h1, h2, h3, h4]
    · by_cases h2 : b = a
      · subst h2; simp
      · have h3 : ¬ a ≤ b := by omega
        simp [h1, h2, h3]

/-- An offset of a buffer lies inside the buffer memory. -/
theorem bufAddr_lt (b : BufNo) (offset : Nat) (h : offset < Config.bufferBytes) :
    bufAddr b offset < 96 * Config.bufferBytes := by
  have := b.isLt
  simp only [bufAddr, Config.bufferBytes] at *
  omega

/-- Two buffer bytes share an address only if buffer and offset agree. -/
theorem bufAddr_inj {b c : BufNo} {o p : Nat} (ho : o < Config.bufferBytes) (hp : p < Config.bufferBytes) :
    bufAddr b o = bufAddr c p ↔ b = c ∧ o = p := by
  simp only [bufAddr, Config.bufferBytes, Fin.ext_iff] at *
  omega

/-- The buffer memory at reset has the canonical form. -/
theorem reset_mem_wf : Memory.wf State.reset.mem := by decide

end Sys2Proof.Machine
end

