-- ==== Sys2Proof/Laws/State.lean ====
section
/-! SUPPORT. The small lemmas of the state: what a table reads after a change of it, and what every field reads after each of the updates that the meanings use. -/

namespace Sys2Proof.Machine

variable {α : Type} {n : Nat}

/-! ## Tables -/

@[simp] theorem tget_tput (t : Table α n) (i j : Fin n) (x : α) :
    tget (tput t i x) j = if i = j then x else tget t j := by
  simp [tget, tput, Vector.getElem_set, Fin.ext_iff]

theorem tget_tput_self (t : Table α n) (i : Fin n) (x : α) : tget (tput t i x) i = x := by simp

@[simp] theorem tget_tmap (f : Fin n → α → α) (t : Table α n) (i : Fin n) : tget (tmap f t) i = f i (tget t i) := by
  simp [tget, tmap]

@[simp] theorem tget_replicate (x : α) (i : Fin n) : tget (Vector.replicate n x) i = x := by
  simp [tget]

/-- Two tables that read alike are one. -/
theorem table_ext {t u : Table α n} (h : ∀ i, tget t i = tget u i) : t = u := by
  apply Vector.ext
  intro i hi
  exact h ⟨i, hi⟩

@[simp] theorem tput_tget (t : Table α n) (i : Fin n) : tput t i (tget t i) = t := by
  apply table_ext
  intro j
  simp only [tget_tput]
  split
  · next h => rw [h]
  · rfl

@[simp] theorem tput_tput (t : Table α n) (i : Fin n) (x y : α) : tput (tput t i x) i y = tput t i y := by
  apply table_ext
  intro j
  simp only [tget_tput]
  split <;> rfl

@[simp] theorem tget_overlay {m : Nat} (t : Table Byte m) (off : Nat) (bytes : List Byte) (i : Fin m) :
    tget (overlay t off bytes) i = if off ≤ i.val then (bytes[i.val - off]?).getD (tget t i) else tget t i := by
  simp [overlay]

/-! ## The setters of one table entry -/

section setPort
variable (s : State) (h : HostId) (x : Port)

@[simp] theorem State.setPort_pending : (s.setPort h x).pending = s.pending := rfl
@[simp] theorem State.setPort_porst : (s.setPort h x).porst = s.porst := rfl
@[simp] theorem State.setPort_slots : (s.setPort h x).slots = s.slots := rfl
@[simp] theorem State.setPort_submission : (s.setPort h x).submission = s.submission := rfl
@[simp] theorem State.setPort_finish : (s.setPort h x).finish = s.finish := rfl
@[simp] theorem State.setPort_stations : (s.setPort h x).stations = s.stations := rfl
@[simp] theorem State.setPort_holders : (s.setPort h x).holders = s.holders := rfl
@[simp] theorem State.setPort_attached : (s.setPort h x).attached = s.attached := rfl
@[simp] theorem State.setPort_freeList : (s.setPort h x).freeList = s.freeList := rfl
@[simp] theorem State.setPort_mem : (s.setPort h x).mem = s.mem := rfl
@[simp] theorem State.setPort_lastServed : (s.setPort h x).lastServed = s.lastServed := rfl
@[simp] theorem State.setPort_engineClaim : (s.setPort h x).engineClaim = s.engineClaim := rfl
@[simp] theorem State.setPort_service : (s.setPort h x).service = s.service := rfl
@[simp] theorem State.setPort_engine : (s.setPort h x).engine = s.engine := rfl
@[simp] theorem State.setPort_stats : (s.setPort h x).stats = s.stats := rfl
@[simp] theorem State.setPort_pointers : (s.setPort h x).pointers = s.pointers := rfl
@[simp] theorem State.setPort_lif : (s.setPort h x).lif = s.lif := rfl
@[simp] theorem State.setPort_entries : (s.setPort h x).entries = s.entries := rfl
@[simp] theorem State.setPort_queues : (s.setPort h x).queues = s.queues := rfl
@[simp] theorem State.setPort_notices : (s.setPort h x).notices = s.notices := rfl
@[simp] theorem State.setPort_active : (s.setPort h x).active = s.active := rfl
@[simp] theorem State.setPort_staged : (s.setPort h x).staged = s.staged := rfl
@[simp] theorem State.setPort_prescaler : (s.setPort h x).prescaler = s.prescaler := rfl
@[simp] theorem State.setPort_taken : (s.setPort h x).taken = s.taken := rfl
@[simp] theorem State.setPort_hand : (s.setPort h x).hand = s.hand := rfl
@[simp] theorem State.setPort_port (j : HostId) : (s.setPort h x).port j = if h = j then x else s.port j := by
  simp [State.setPort, State.port]
@[simp] theorem State.setPort_slot (j : SlotNo) : (s.setPort h x).slot j = s.slot j := rfl
@[simp] theorem State.setPort_station (j : StationNo) : (s.setPort h x).station j = s.station j := rfl
@[simp] theorem State.setPort_entry (j : EntryNo) : (s.setPort h x).entry j = s.entry j := rfl
@[simp] theorem State.setPort_queue (j : HostId) : (s.setPort h x).queue j = s.queue j := rfl
@[simp] theorem State.setPort_notice (j : HostId) : (s.setPort h x).notice j = s.notice j := rfl
@[simp] theorem State.setPort_holder (j : BufNo) : (s.setPort h x).holder j = s.holder j := rfl
@[simp] theorem State.setPort_attachment (j : BufNo) : (s.setPort h x).attachment j = s.attachment j := rfl

end setPort

section setSlot
variable (s : State) (i : SlotNo) (x : Exchange)

@[simp] theorem State.setSlot_pending : (s.setSlot i x).pending = s.pending := rfl
@[simp] theorem State.setSlot_porst : (s.setSlot i x).porst = s.porst := rfl
@[simp] theorem State.setSlot_ports : (s.setSlot i x).ports = s.ports := rfl
@[simp] theorem State.setSlot_submission : (s.setSlot i x).submission = s.submission := rfl
@[simp] theorem State.setSlot_finish : (s.setSlot i x).finish = s.finish := rfl
@[simp] theorem State.setSlot_stations : (s.setSlot i x).stations = s.stations := rfl
@[simp] theorem State.setSlot_holders : (s.setSlot i x).holders = s.holders := rfl
@[simp] theorem State.setSlot_attached : (s.setSlot i x).attached = s.attached := rfl
@[simp] theorem State.setSlot_freeList : (s.setSlot i x).freeList = s.freeList := rfl
@[simp] theorem State.setSlot_mem : (s.setSlot i x).mem = s.mem := rfl
@[simp] theorem State.setSlot_lastServed : (s.setSlot i x).lastServed = s.lastServed := rfl
@[simp] theorem State.setSlot_engineClaim : (s.setSlot i x).engineClaim = s.engineClaim := rfl
@[simp] theorem State.setSlot_service : (s.setSlot i x).service = s.service := rfl
@[simp] theorem State.setSlot_engine : (s.setSlot i x).engine = s.engine := rfl
@[simp] theorem State.setSlot_stats : (s.setSlot i x).stats = s.stats := rfl
@[simp] theorem State.setSlot_pointers : (s.setSlot i x).pointers = s.pointers := rfl
@[simp] theorem State.setSlot_lif : (s.setSlot i x).lif = s.lif := rfl
@[simp] theorem State.setSlot_entries : (s.setSlot i x).entries = s.entries := rfl
@[simp] theorem State.setSlot_queues : (s.setSlot i x).queues = s.queues := rfl
@[simp] theorem State.setSlot_notices : (s.setSlot i x).notices = s.notices := rfl
@[simp] theorem State.setSlot_active : (s.setSlot i x).active = s.active := rfl
@[simp] theorem State.setSlot_staged : (s.setSlot i x).staged = s.staged := rfl
@[simp] theorem State.setSlot_prescaler : (s.setSlot i x).prescaler = s.prescaler := rfl
@[simp] theorem State.setSlot_taken : (s.setSlot i x).taken = s.taken := rfl
@[simp] theorem State.setSlot_hand : (s.setSlot i x).hand = s.hand := rfl
@[simp] theorem State.setSlot_port (j : HostId) : (s.setSlot i x).port j = s.port j := rfl
@[simp] theorem State.setSlot_slot (j : SlotNo) : (s.setSlot i x).slot j = if i = j then x else s.slot j := by
  simp [State.setSlot, State.slot]
@[simp] theorem State.setSlot_station (j : StationNo) : (s.setSlot i x).station j = s.station j := rfl
@[simp] theorem State.setSlot_entry (j : EntryNo) : (s.setSlot i x).entry j = s.entry j := rfl
@[simp] theorem State.setSlot_queue (j : HostId) : (s.setSlot i x).queue j = s.queue j := rfl
@[simp] theorem State.setSlot_notice (j : HostId) : (s.setSlot i x).notice j = s.notice j := rfl
@[simp] theorem State.setSlot_holder (j : BufNo) : (s.setSlot i x).holder j = s.holder j := rfl
@[simp] theorem State.setSlot_attachment (j : BufNo) : (s.setSlot i x).attachment j = s.attachment j := rfl

end setSlot

section setStation
variable (s : State) (k : StationNo) (x : Station)

@[simp] theorem State.setStation_pending : (s.setStation k x).pending = s.pending := rfl
@[simp] theorem State.setStation_porst : (s.setStation k x).porst = s.porst := rfl
@[simp] theorem State.setStation_ports : (s.setStation k x).ports = s.ports := rfl
@[simp] theorem State.setStation_slots : (s.setStation k x).slots = s.slots := rfl
@[simp] theorem State.setStation_submission : (s.setStation k x).submission = s.submission := rfl
@[simp] theorem State.setStation_finish : (s.setStation k x).finish = s.finish := rfl
@[simp] theorem State.setStation_holders : (s.setStation k x).holders = s.holders := rfl
@[simp] theorem State.setStation_attached : (s.setStation k x).attached = s.attached := rfl
@[simp] theorem State.setStation_freeList : (s.setStation k x).freeList = s.freeList := rfl
@[simp] theorem State.setStation_mem : (s.setStation k x).mem = s.mem := rfl
@[simp] theorem State.setStation_lastServed : (s.setStation k x).lastServed = s.lastServed := rfl
@[simp] theorem State.setStation_engineClaim : (s.setStation k x).engineClaim = s.engineClaim := rfl
@[simp] theorem State.setStation_service : (s.setStation k x).service = s.service := rfl
@[simp] theorem State.setStation_engine : (s.setStation k x).engine = s.engine := rfl
@[simp] theorem State.setStation_stats : (s.setStation k x).stats = s.stats := rfl
@[simp] theorem State.setStation_pointers : (s.setStation k x).pointers = s.pointers := rfl
@[simp] theorem State.setStation_lif : (s.setStation k x).lif = s.lif := rfl
@[simp] theorem State.setStation_entries : (s.setStation k x).entries = s.entries := rfl
@[simp] theorem State.setStation_queues : (s.setStation k x).queues = s.queues := rfl
@[simp] theorem State.setStation_notices : (s.setStation k x).notices = s.notices := rfl
@[simp] theorem State.setStation_active : (s.setStation k x).active = s.active := rfl
@[simp] theorem State.setStation_staged : (s.setStation k x).staged = s.staged := rfl
@[simp] theorem State.setStation_prescaler : (s.setStation k x).prescaler = s.prescaler := rfl
@[simp] theorem State.setStation_taken : (s.setStation k x).taken = s.taken := rfl
@[simp] theorem State.setStation_hand : (s.setStation k x).hand = s.hand := rfl
@[simp] theorem State.setStation_port (j : HostId) : (s.setStation k x).port j = s.port j := rfl
@[simp] theorem State.setStation_slot (j : SlotNo) : (s.setStation k x).slot j = s.slot j := rfl
@[simp] theorem State.setStation_station (j : StationNo) : (s.setStation k x).station j = if k = j then x else s.station j := by
  simp [State.setStation, State.station]
@[simp] theorem State.setStation_entry (j : EntryNo) : (s.setStation k x).entry j = s.entry j := rfl
@[simp] theorem State.setStation_queue (j : HostId) : (s.setStation k x).queue j = s.queue j := rfl
@[simp] theorem State.setStation_notice (j : HostId) : (s.setStation k x).notice j = s.notice j := rfl
@[simp] theorem State.setStation_holder (j : BufNo) : (s.setStation k x).holder j = s.holder j := rfl
@[simp] theorem State.setStation_attachment (j : BufNo) : (s.setStation k x).attachment j = s.attachment j := rfl

end setStation

section setEntry
variable (s : State) (e : EntryNo) (x : PollEntry)

@[simp] theorem State.setEntry_pending : (s.setEntry e x).pending = s.pending := rfl
@[simp] theorem State.setEntry_porst : (s.setEntry e x).porst = s.porst := rfl
@[simp] theorem State.setEntry_ports : (s.setEntry e x).ports = s.ports := rfl
@[simp] theorem State.setEntry_slots : (s.setEntry e x).slots = s.slots := rfl
@[simp] theorem State.setEntry_submission : (s.setEntry e x).submission = s.submission := rfl
@[simp] theorem State.setEntry_finish : (s.setEntry e x).finish = s.finish := rfl
@[simp] theorem State.setEntry_stations : (s.setEntry e x).stations = s.stations := rfl
@[simp] theorem State.setEntry_holders : (s.setEntry e x).holders = s.holders := rfl
@[simp] theorem State.setEntry_attached : (s.setEntry e x).attached = s.attached := rfl
@[simp] theorem State.setEntry_freeList : (s.setEntry e x).freeList = s.freeList := rfl
@[simp] theorem State.setEntry_mem : (s.setEntry e x).mem = s.mem := rfl
@[simp] theorem State.setEntry_lastServed : (s.setEntry e x).lastServed = s.lastServed := rfl
@[simp] theorem State.setEntry_engineClaim : (s.setEntry e x).engineClaim = s.engineClaim := rfl
@[simp] theorem State.setEntry_service : (s.setEntry e x).service = s.service := rfl
@[simp] theorem State.setEntry_engine : (s.setEntry e x).engine = s.engine := rfl
@[simp] theorem State.setEntry_stats : (s.setEntry e x).stats = s.stats := rfl
@[simp] theorem State.setEntry_pointers : (s.setEntry e x).pointers = s.pointers := rfl
@[simp] theorem State.setEntry_lif : (s.setEntry e x).lif = s.lif := rfl
@[simp] theorem State.setEntry_queues : (s.setEntry e x).queues = s.queues := rfl
@[simp] theorem State.setEntry_notices : (s.setEntry e x).notices = s.notices := rfl
@[simp] theorem State.setEntry_active : (s.setEntry e x).active = s.active := rfl
@[simp] theorem State.setEntry_staged : (s.setEntry e x).staged = s.staged := rfl
@[simp] theorem State.setEntry_prescaler : (s.setEntry e x).prescaler = s.prescaler := rfl
@[simp] theorem State.setEntry_taken : (s.setEntry e x).taken = s.taken := rfl
@[simp] theorem State.setEntry_hand : (s.setEntry e x).hand = s.hand := rfl
@[simp] theorem State.setEntry_port (j : HostId) : (s.setEntry e x).port j = s.port j := rfl
@[simp] theorem State.setEntry_slot (j : SlotNo) : (s.setEntry e x).slot j = s.slot j := rfl
@[simp] theorem State.setEntry_station (j : StationNo) : (s.setEntry e x).station j = s.station j := rfl
@[simp] theorem State.setEntry_entry (j : EntryNo) : (s.setEntry e x).entry j = if e = j then x else s.entry j := by
  simp [State.setEntry, State.entry]
@[simp] theorem State.setEntry_queue (j : HostId) : (s.setEntry e x).queue j = s.queue j := rfl
@[simp] theorem State.setEntry_notice (j : HostId) : (s.setEntry e x).notice j = s.notice j := rfl
@[simp] theorem State.setEntry_holder (j : BufNo) : (s.setEntry e x).holder j = s.holder j := rfl
@[simp] theorem State.setEntry_attachment (j : BufNo) : (s.setEntry e x).attachment j = s.attachment j := rfl

end setEntry

section setQueue
variable (s : State) (h : HostId) (x : List Completion)

@[simp] theorem State.setQueue_pending : (s.setQueue h x).pending = s.pending := rfl
@[simp] theorem State.setQueue_porst : (s.setQueue h x).porst = s.porst := rfl
@[simp] theorem State.setQueue_ports : (s.setQueue h x).ports = s.ports := rfl
@[simp] theorem State.setQueue_slots : (s.setQueue h x).slots = s.slots := rfl
@[simp] theorem State.setQueue_submission : (s.setQueue h x).submission = s.submission := rfl
@[simp] theorem State.setQueue_finish : (s.setQueue h x).finish = s.finish := rfl
@[simp] theorem State.setQueue_stations : (s.setQueue h x).stations = s.stations := rfl
@[simp] theorem State.setQueue_holders : (s.setQueue h x).holders = s.holders := rfl
@[simp] theorem State.setQueue_attached : (s.setQueue h x).attached = s.attached := rfl
@[simp] theorem State.setQueue_freeList : (s.setQueue h x).freeList = s.freeList := rfl
@[simp] theorem State.setQueue_mem : (s.setQueue h x).mem = s.mem := rfl
@[simp] theorem State.setQueue_lastServed : (s.setQueue h x).lastServed = s.lastServed := rfl
@[simp] theorem State.setQueue_engineClaim : (s.setQueue h x).engineClaim = s.engineClaim := rfl
@[simp] theorem State.setQueue_service : (s.setQueue h x).service = s.service := rfl
@[simp] theorem State.setQueue_engine : (s.setQueue h x).engine = s.engine := rfl
@[simp] theorem State.setQueue_stats : (s.setQueue h x).stats = s.stats := rfl
@[simp] theorem State.setQueue_pointers : (s.setQueue h x).pointers = s.pointers := rfl
@[simp] theorem State.setQueue_lif : (s.setQueue h x).lif = s.lif := rfl
@[simp] theorem State.setQueue_entries : (s.setQueue h x).entries = s.entries := rfl
@[simp] theorem State.setQueue_notices : (s.setQueue h x).notices = s.notices := rfl
@[simp] theorem State.setQueue_active : (s.setQueue h x).active = s.active := rfl
@[simp] theorem State.setQueue_staged : (s.setQueue h x).staged = s.staged := rfl
@[simp] theorem State.setQueue_prescaler : (s.setQueue h x).prescaler = s.prescaler := rfl
@[simp] theorem State.setQueue_taken : (s.setQueue h x).taken = s.taken := rfl
@[simp] theorem State.setQueue_hand : (s.setQueue h x).hand = s.hand := rfl
@[simp] theorem State.setQueue_port (j : HostId) : (s.setQueue h x).port j = s.port j := rfl
@[simp] theorem State.setQueue_slot (j : SlotNo) : (s.setQueue h x).slot j = s.slot j := rfl
@[simp] theorem State.setQueue_station (j : StationNo) : (s.setQueue h x).station j = s.station j := rfl
@[simp] theorem State.setQueue_entry (j : EntryNo) : (s.setQueue h x).entry j = s.entry j := rfl
@[simp] theorem State.setQueue_queue (j : HostId) : (s.setQueue h x).queue j = if h = j then x else s.queue j := by
  simp [State.setQueue, State.queue]
@[simp] theorem State.setQueue_notice (j : HostId) : (s.setQueue h x).notice j = s.notice j := rfl
@[simp] theorem State.setQueue_holder (j : BufNo) : (s.setQueue h x).holder j = s.holder j := rfl
@[simp] theorem State.setQueue_attachment (j : BufNo) : (s.setQueue h x).attachment j = s.attachment j := rfl

end setQueue

section setNotice
variable (s : State) (h : HostId) (x : NoticeCtl)

@[simp] theorem State.setNotice_pending : (s.setNotice h x).pending = s.pending := rfl
@[simp] theorem State.setNotice_porst : (s.setNotice h x).porst = s.porst := rfl
@[simp] theorem State.setNotice_ports : (s.setNotice h x).ports = s.ports := rfl
@[simp] theorem State.setNotice_slots : (s.setNotice h x).slots = s.slots := rfl
@[simp] theorem State.setNotice_submission : (s.setNotice h x).submission = s.submission := rfl
@[simp] theorem State.setNotice_finish : (s.setNotice h x).finish = s.finish := rfl
@[simp] theorem State.setNotice_stations : (s.setNotice h x).stations = s.stations := rfl
@[simp] theorem State.setNotice_holders : (s.setNotice h x).holders = s.holders := rfl
@[simp] theorem State.setNotice_attached : (s.setNotice h x).attached = s.attached := rfl
@[simp] theorem State.setNotice_freeList : (s.setNotice h x).freeList = s.freeList := rfl
@[simp] theorem State.setNotice_mem : (s.setNotice h x).mem = s.mem := rfl
@[simp] theorem State.setNotice_lastServed : (s.setNotice h x).lastServed = s.lastServed := rfl
@[simp] theorem State.setNotice_engineClaim : (s.setNotice h x).engineClaim = s.engineClaim := rfl
@[simp] theorem State.setNotice_service : (s.setNotice h x).service = s.service := rfl
@[simp] theorem State.setNotice_engine : (s.setNotice h x).engine = s.engine := rfl
@[simp] theorem State.setNotice_stats : (s.setNotice h x).stats = s.stats := rfl
@[simp] theorem State.setNotice_pointers : (s.setNotice h x).pointers = s.pointers := rfl
@[simp] theorem State.setNotice_lif : (s.setNotice h x).lif = s.lif := rfl
@[simp] theorem State.setNotice_entries : (s.setNotice h x).entries = s.entries := rfl
@[simp] theorem State.setNotice_queues : (s.setNotice h x).queues = s.queues := rfl
@[simp] theorem State.setNotice_active : (s.setNotice h x).active = s.active := rfl
@[simp] theorem State.setNotice_staged : (s.setNotice h x).staged = s.staged := rfl
@[simp] theorem State.setNotice_prescaler : (s.setNotice h x).prescaler = s.prescaler := rfl
@[simp] theorem State.setNotice_taken : (s.setNotice h x).taken = s.taken := rfl
@[simp] theorem State.setNotice_hand : (s.setNotice h x).hand = s.hand := rfl
@[simp] theorem State.setNotice_port (j : HostId) : (s.setNotice h x).port j = s.port j := rfl
@[simp] theorem State.setNotice_slot (j : SlotNo) : (s.setNotice h x).slot j = s.slot j := rfl
@[simp] theorem State.setNotice_station (j : StationNo) : (s.setNotice h x).station j = s.station j := rfl
@[simp] theorem State.setNotice_entry (j : EntryNo) : (s.setNotice h x).entry j = s.entry j := rfl
@[simp] theorem State.setNotice_queue (j : HostId) : (s.setNotice h x).queue j = s.queue j := rfl
@[simp] theorem State.setNotice_notice (j : HostId) : (s.setNotice h x).notice j = if h = j then x else s.notice j := by
  simp [State.setNotice, State.notice]
@[simp] theorem State.setNotice_holder (j : BufNo) : (s.setNotice h x).holder j = s.holder j := rfl
@[simp] theorem State.setNotice_attachment (j : BufNo) : (s.setNotice h x).attachment j = s.attachment j := rfl

end setNotice

/-! ## The setters of one block -/

section setEngine
variable (s : State) (x : Engine)

@[simp] theorem State.setEngine_pending : (s.setEngine x).pending = s.pending := rfl
@[simp] theorem State.setEngine_porst : (s.setEngine x).porst = s.porst := rfl
@[simp] theorem State.setEngine_ports : (s.setEngine x).ports = s.ports := rfl
@[simp] theorem State.setEngine_slots : (s.setEngine x).slots = s.slots := rfl
@[simp] theorem State.setEngine_submission : (s.setEngine x).submission = s.submission := rfl
@[simp] theorem State.setEngine_finish : (s.setEngine x).finish = s.finish := rfl
@[simp] theorem State.setEngine_stations : (s.setEngine x).stations = s.stations := rfl
@[simp] theorem State.setEngine_holders : (s.setEngine x).holders = s.holders := rfl
@[simp] theorem State.setEngine_attached : (s.setEngine x).attached = s.attached := rfl
@[simp] theorem State.setEngine_freeList : (s.setEngine x).freeList = s.freeList := rfl
@[simp] theorem State.setEngine_mem : (s.setEngine x).mem = s.mem := rfl
@[simp] theorem State.setEngine_lastServed : (s.setEngine x).lastServed = s.lastServed := rfl
@[simp] theorem State.setEngine_engineClaim : (s.setEngine x).engineClaim = s.engineClaim := rfl
@[simp] theorem State.setEngine_service : (s.setEngine x).service = s.service := rfl
@[simp] theorem State.setEngine_engine : (s.setEngine x).engine = x := rfl
@[simp] theorem State.setEngine_stats : (s.setEngine x).stats = s.stats := rfl
@[simp] theorem State.setEngine_pointers : (s.setEngine x).pointers = s.pointers := rfl
@[simp] theorem State.setEngine_lif : (s.setEngine x).lif = s.lif := rfl
@[simp] theorem State.setEngine_entries : (s.setEngine x).entries = s.entries := rfl
@[simp] theorem State.setEngine_queues : (s.setEngine x).queues = s.queues := rfl
@[simp] theorem State.setEngine_notices : (s.setEngine x).notices = s.notices := rfl
@[simp] theorem State.setEngine_active : (s.setEngine x).active = s.active := rfl
@[simp] theorem State.setEngine_staged : (s.setEngine x).staged = s.staged := rfl
@[simp] theorem State.setEngine_prescaler : (s.setEngine x).prescaler = s.prescaler := rfl
@[simp] theorem State.setEngine_taken : (s.setEngine x).taken = s.taken := rfl
@[simp] theorem State.setEngine_hand : (s.setEngine x).hand = s.hand := rfl
@[simp] theorem State.setEngine_port (j : HostId) : (s.setEngine x).port j = s.port j := rfl
@[simp] theorem State.setEngine_slot (j : SlotNo) : (s.setEngine x).slot j = s.slot j := rfl
@[simp] theorem State.setEngine_station (j : StationNo) : (s.setEngine x).station j = s.station j := rfl
@[simp] theorem State.setEngine_entry (j : EntryNo) : (s.setEngine x).entry j = s.entry j := rfl
@[simp] theorem State.setEngine_queue (j : HostId) : (s.setEngine x).queue j = s.queue j := rfl
@[simp] theorem State.setEngine_notice (j : HostId) : (s.setEngine x).notice j = s.notice j := rfl
@[simp] theorem State.setEngine_holder (j : BufNo) : (s.setEngine x).holder j = s.holder j := rfl
@[simp] theorem State.setEngine_attachment (j : BufNo) : (s.setEngine x).attachment j = s.attachment j := rfl

end setEngine

section setStats
variable (s : State) (x : Stats)

@[simp] theorem State.setStats_pending : (s.setStats x).pending = s.pending := rfl
@[simp] theorem State.setStats_porst : (s.setStats x).porst = s.porst := rfl
@[simp] theorem State.setStats_ports : (s.setStats x).ports = s.ports := rfl
@[simp] theorem State.setStats_slots : (s.setStats x).slots = s.slots := rfl
@[simp] theorem State.setStats_submission : (s.setStats x).submission = s.submission := rfl
@[simp] theorem State.setStats_finish : (s.setStats x).finish = s.finish := rfl
@[simp] theorem State.setStats_stations : (s.setStats x).stations = s.stations := rfl
@[simp] theorem State.setStats_holders : (s.setStats x).holders = s.holders := rfl
@[simp] theorem State.setStats_attached : (s.setStats x).attached = s.attached := rfl
@[simp] theorem State.setStats_freeList : (s.setStats x).freeList = s.freeList := rfl
@[simp] theorem State.setStats_mem : (s.setStats x).mem = s.mem := rfl
@[simp] theorem State.setStats_lastServed : (s.setStats x).lastServed = s.lastServed := rfl
@[simp] theorem State.setStats_engineClaim : (s.setStats x).engineClaim = s.engineClaim := rfl
@[simp] theorem State.setStats_service : (s.setStats x).service = s.service := rfl
@[simp] theorem State.setStats_engine : (s.setStats x).engine = s.engine := rfl
@[simp] theorem State.setStats_stats : (s.setStats x).stats = x := rfl
@[simp] theorem State.setStats_pointers : (s.setStats x).pointers = s.pointers := rfl
@[simp] theorem State.setStats_lif : (s.setStats x).lif = s.lif := rfl
@[simp] theorem State.setStats_entries : (s.setStats x).entries = s.entries := rfl
@[simp] theorem State.setStats_queues : (s.setStats x).queues = s.queues := rfl
@[simp] theorem State.setStats_notices : (s.setStats x).notices = s.notices := rfl
@[simp] theorem State.setStats_active : (s.setStats x).active = s.active := rfl
@[simp] theorem State.setStats_staged : (s.setStats x).staged = s.staged := rfl
@[simp] theorem State.setStats_prescaler : (s.setStats x).prescaler = s.prescaler := rfl
@[simp] theorem State.setStats_taken : (s.setStats x).taken = s.taken := rfl
@[simp] theorem State.setStats_hand : (s.setStats x).hand = s.hand := rfl
@[simp] theorem State.setStats_port (j : HostId) : (s.setStats x).port j = s.port j := rfl
@[simp] theorem State.setStats_slot (j : SlotNo) : (s.setStats x).slot j = s.slot j := rfl
@[simp] theorem State.setStats_station (j : StationNo) : (s.setStats x).station j = s.station j := rfl
@[simp] theorem State.setStats_entry (j : EntryNo) : (s.setStats x).entry j = s.entry j := rfl
@[simp] theorem State.setStats_queue (j : HostId) : (s.setStats x).queue j = s.queue j := rfl
@[simp] theorem State.setStats_notice (j : HostId) : (s.setStats x).notice j = s.notice j := rfl
@[simp] theorem State.setStats_holder (j : BufNo) : (s.setStats x).holder j = s.holder j := rfl
@[simp] theorem State.setStats_attachment (j : BufNo) : (s.setStats x).attachment j = s.attachment j := rfl

end setStats

section setLif
variable (s : State) (x : Lif)

@[simp] theorem State.setLif_pending : (s.setLif x).pending = s.pending := rfl
@[simp] theorem State.setLif_porst : (s.setLif x).porst = s.porst := rfl
@[simp] theorem State.setLif_ports : (s.setLif x).ports = s.ports := rfl
@[simp] theorem State.setLif_slots : (s.setLif x).slots = s.slots := rfl
@[simp] theorem State.setLif_submission : (s.setLif x).submission = s.submission := rfl
@[simp] theorem State.setLif_finish : (s.setLif x).finish = s.finish := rfl
@[simp] theorem State.setLif_stations : (s.setLif x).stations = s.stations := rfl
@[simp] theorem State.setLif_holders : (s.setLif x).holders = s.holders := rfl
@[simp] theorem State.setLif_attached : (s.setLif x).attached = s.attached := rfl
@[simp] theorem State.setLif_freeList : (s.setLif x).freeList = s.freeList := rfl
@[simp] theorem State.setLif_mem : (s.setLif x).mem = s.mem := rfl
@[simp] theorem State.setLif_lastServed : (s.setLif x).lastServed = s.lastServed := rfl
@[simp] theorem State.setLif_engineClaim : (s.setLif x).engineClaim = s.engineClaim := rfl
@[simp] theorem State.setLif_service : (s.setLif x).service = s.service := rfl
@[simp] theorem State.setLif_engine : (s.setLif x).engine = s.engine := rfl
@[simp] theorem State.setLif_stats : (s.setLif x).stats = s.stats := rfl
@[simp] theorem State.setLif_pointers : (s.setLif x).pointers = s.pointers := rfl
@[simp] theorem State.setLif_lif : (s.setLif x).lif = x := rfl
@[simp] theorem State.setLif_entries : (s.setLif x).entries = s.entries := rfl
@[simp] theorem State.setLif_queues : (s.setLif x).queues = s.queues := rfl
@[simp] theorem State.setLif_notices : (s.setLif x).notices = s.notices := rfl
@[simp] theorem State.setLif_active : (s.setLif x).active = s.active := rfl
@[simp] theorem State.setLif_staged : (s.setLif x).staged = s.staged := rfl
@[simp] theorem State.setLif_prescaler : (s.setLif x).prescaler = s.prescaler := rfl
@[simp] theorem State.setLif_taken : (s.setLif x).taken = s.taken := rfl
@[simp] theorem State.setLif_hand : (s.setLif x).hand = s.hand := rfl
@[simp] theorem State.setLif_port (j : HostId) : (s.setLif x).port j = s.port j := rfl
@[simp] theorem State.setLif_slot (j : SlotNo) : (s.setLif x).slot j = s.slot j := rfl
@[simp] theorem State.setLif_station (j : StationNo) : (s.setLif x).station j = s.station j := rfl
@[simp] theorem State.setLif_entry (j : EntryNo) : (s.setLif x).entry j = s.entry j := rfl
@[simp] theorem State.setLif_queue (j : HostId) : (s.setLif x).queue j = s.queue j := rfl
@[simp] theorem State.setLif_notice (j : HostId) : (s.setLif x).notice j = s.notice j := rfl
@[simp] theorem State.setLif_holder (j : BufNo) : (s.setLif x).holder j = s.holder j := rfl
@[simp] theorem State.setLif_attachment (j : BufNo) : (s.setLif x).attachment j = s.attachment j := rfl

end setLif

section setHand
variable (s : State) (x : HandOvers)

@[simp] theorem State.setHand_pending : (s.setHand x).pending = s.pending := rfl
@[simp] theorem State.setHand_porst : (s.setHand x).porst = s.porst := rfl
@[simp] theorem State.setHand_ports : (s.setHand x).ports = s.ports := rfl
@[simp] theorem State.setHand_slots : (s.setHand x).slots = s.slots := rfl
@[simp] theorem State.setHand_submission : (s.setHand x).submission = s.submission := rfl
@[simp] theorem State.setHand_finish : (s.setHand x).finish = s.finish := rfl
@[simp] theorem State.setHand_stations : (s.setHand x).stations = s.stations := rfl
@[simp] theorem State.setHand_holders : (s.setHand x).holders = s.holders := rfl
@[simp] theorem State.setHand_attached : (s.setHand x).attached = s.attached := rfl
@[simp] theorem State.setHand_freeList : (s.setHand x).freeList = s.freeList := rfl
@[simp] theorem State.setHand_mem : (s.setHand x).mem = s.mem := rfl
@[simp] theorem State.setHand_lastServed : (s.setHand x).lastServed = s.lastServed := rfl
@[simp] theorem State.setHand_engineClaim : (s.setHand x).engineClaim = s.engineClaim := rfl
@[simp] theorem State.setHand_service : (s.setHand x).service = s.service := rfl
@[simp] theorem State.setHand_engine : (s.setHand x).engine = s.engine := rfl
@[simp] theorem State.setHand_stats : (s.setHand x).stats = s.stats := rfl
@[simp] theorem State.setHand_pointers : (s.setHand x).pointers = s.pointers := rfl
@[simp] theorem State.setHand_lif : (s.setHand x).lif = s.lif := rfl
@[simp] theorem State.setHand_entries : (s.setHand x).entries = s.entries := rfl
@[simp] theorem State.setHand_queues : (s.setHand x).queues = s.queues := rfl
@[simp] theorem State.setHand_notices : (s.setHand x).notices = s.notices := rfl
@[simp] theorem State.setHand_active : (s.setHand x).active = s.active := rfl
@[simp] theorem State.setHand_staged : (s.setHand x).staged = s.staged := rfl
@[simp] theorem State.setHand_prescaler : (s.setHand x).prescaler = s.prescaler := rfl
@[simp] theorem State.setHand_taken : (s.setHand x).taken = s.taken := rfl
@[simp] theorem State.setHand_hand : (s.setHand x).hand = x := rfl
@[simp] theorem State.setHand_port (j : HostId) : (s.setHand x).port j = s.port j := rfl
@[simp] theorem State.setHand_slot (j : SlotNo) : (s.setHand x).slot j = s.slot j := rfl
@[simp] theorem State.setHand_station (j : StationNo) : (s.setHand x).station j = s.station j := rfl
@[simp] theorem State.setHand_entry (j : EntryNo) : (s.setHand x).entry j = s.entry j := rfl
@[simp] theorem State.setHand_queue (j : HostId) : (s.setHand x).queue j = s.queue j := rfl
@[simp] theorem State.setHand_notice (j : HostId) : (s.setHand x).notice j = s.notice j := rfl
@[simp] theorem State.setHand_holder (j : BufNo) : (s.setHand x).holder j = s.holder j := rfl
@[simp] theorem State.setHand_attachment (j : BufNo) : (s.setHand x).attachment j = s.attachment j := rfl

end setHand

section setTaken
variable (s : State) (x : TicksTaken)

@[simp] theorem State.setTaken_pending : (s.setTaken x).pending = s.pending := rfl
@[simp] theorem State.setTaken_porst : (s.setTaken x).porst = s.porst := rfl
@[simp] theorem State.setTaken_ports : (s.setTaken x).ports = s.ports := rfl
@[simp] theorem State.setTaken_slots : (s.setTaken x).slots = s.slots := rfl
@[simp] theorem State.setTaken_submission : (s.setTaken x).submission = s.submission := rfl
@[simp] theorem State.setTaken_finish : (s.setTaken x).finish = s.finish := rfl
@[simp] theorem State.setTaken_stations : (s.setTaken x).stations = s.stations := rfl
@[simp] theorem State.setTaken_holders : (s.setTaken x).holders = s.holders := rfl
@[simp] theorem State.setTaken_attached : (s.setTaken x).attached = s.attached := rfl
@[simp] theorem State.setTaken_freeList : (s.setTaken x).freeList = s.freeList := rfl
@[simp] theorem State.setTaken_mem : (s.setTaken x).mem = s.mem := rfl
@[simp] theorem State.setTaken_lastServed : (s.setTaken x).lastServed = s.lastServed := rfl
@[simp] theorem State.setTaken_engineClaim : (s.setTaken x).engineClaim = s.engineClaim := rfl
@[simp] theorem State.setTaken_service : (s.setTaken x).service = s.service := rfl
@[simp] theorem State.setTaken_engine : (s.setTaken x).engine = s.engine := rfl
@[simp] theorem State.setTaken_stats : (s.setTaken x).stats = s.stats := rfl
@[simp] theorem State.setTaken_pointers : (s.setTaken x).pointers = s.pointers := rfl
@[simp] theorem State.setTaken_lif : (s.setTaken x).lif = s.lif := rfl
@[simp] theorem State.setTaken_entries : (s.setTaken x).entries = s.entries := rfl
@[simp] theorem State.setTaken_queues : (s.setTaken x).queues = s.queues := rfl
@[simp] theorem State.setTaken_notices : (s.setTaken x).notices = s.notices := rfl
@[simp] theorem State.setTaken_active : (s.setTaken x).active = s.active := rfl
@[simp] theorem State.setTaken_staged : (s.setTaken x).staged = s.staged := rfl
@[simp] theorem State.setTaken_prescaler : (s.setTaken x).prescaler = s.prescaler := rfl
@[simp] theorem State.setTaken_taken : (s.setTaken x).taken = x := rfl
@[simp] theorem State.setTaken_hand : (s.setTaken x).hand = s.hand := rfl
@[simp] theorem State.setTaken_port (j : HostId) : (s.setTaken x).port j = s.port j := rfl
@[simp] theorem State.setTaken_slot (j : SlotNo) : (s.setTaken x).slot j = s.slot j := rfl
@[simp] theorem State.setTaken_station (j : StationNo) : (s.setTaken x).station j = s.station j := rfl
@[simp] theorem State.setTaken_entry (j : EntryNo) : (s.setTaken x).entry j = s.entry j := rfl
@[simp] theorem State.setTaken_queue (j : HostId) : (s.setTaken x).queue j = s.queue j := rfl
@[simp] theorem State.setTaken_notice (j : HostId) : (s.setTaken x).notice j = s.notice j := rfl
@[simp] theorem State.setTaken_holder (j : BufNo) : (s.setTaken x).holder j = s.holder j := rfl
@[simp] theorem State.setTaken_attachment (j : BufNo) : (s.setTaken x).attachment j = s.attachment j := rfl

end setTaken

/-! ## An update over an update of the same part -/

section again
variable (s : State)

@[simp] theorem State.setPort_setPort (h : HostId) (x y : Port) : (s.setPort h x).setPort h y = s.setPort h y := by
  simp [State.setPort]
@[simp] theorem State.setSlot_setSlot (i : SlotNo) (x y : Exchange) : (s.setSlot i x).setSlot i y = s.setSlot i y := by
  simp [State.setSlot]
@[simp] theorem State.setStation_setStation (n : StationNo) (x y : Station) :
    (s.setStation n x).setStation n y = s.setStation n y := by simp [State.setStation]
@[simp] theorem State.setEntry_setEntry (e : EntryNo) (x y : PollEntry) :
    (s.setEntry e x).setEntry e y = s.setEntry e y := by simp [State.setEntry]
@[simp] theorem State.setPort_self (h : HostId) : s.setPort h (s.port h) = s := by simp [State.setPort, State.port]
@[simp] theorem State.setSlot_self (i : SlotNo) : s.setSlot i (s.slot i) = s := by simp [State.setSlot, State.slot]
@[simp] theorem State.setEntry_self (e : EntryNo) : s.setEntry e (s.entry e) = s := by simp [State.setEntry, State.entry]
@[simp] theorem State.setLif_setLif (x y : Lif) : (s.setLif x).setLif y = s.setLif y := rfl
@[simp] theorem State.setLif_self : s.setLif s.lif = s := rfl
@[simp] theorem State.setEngine_setEngine (x y : Engine) : (s.setEngine x).setEngine y = s.setEngine y := rfl
@[simp] theorem State.setEngine_self : s.setEngine s.engine = s := rfl
@[simp] theorem State.setStats_setStats (x y : Stats) : (s.setStats x).setStats y = s.setStats y := rfl
@[simp] theorem State.setStats_self : s.setStats s.stats = s := rfl
@[simp] theorem State.setHand_setHand (x y : HandOvers) : (s.setHand x).setHand y = s.setHand y := rfl
@[simp] theorem State.setHand_self : s.setHand s.hand = s := rfl
@[simp] theorem State.setTaken_setTaken (x y : TicksTaken) : (s.setTaken x).setTaken y = s.setTaken y := rfl
@[simp] theorem State.setTaken_self : s.setTaken s.taken = s := rfl

end again

end Sys2Proof.Machine
end

