-- ==== Sys2Proof/Laws/Operations.lean ====
section
/-! SUPPORT. What the shared operations over tables, ports, notices and buffers do, said once for each. -/

namespace Sys2Proof.Machine

/-! ## Tables -/

/-- The first of a rising list that satisfies a test. -/
theorem find_lowest {n : Nat} (p : Fin n → Bool) : ∀ l : List (Fin n), l.Pairwise (· < ·) → ∀ i,
    l.find? p = some i ↔ i ∈ l ∧ p i = true ∧ ∀ j ∈ l, j < i → p j = false := by
  intro l hl i
  induction l with
  | nil => simp
  | cons a l ih =>
    rw [List.pairwise_cons] at hl
    rw [List.find?_cons]
    by_cases hp : p a = true
    · simp only [hp]
      constructor
      · intro h; obtain rfl : a = i := by simpa using h
        refine ⟨by simp, hp, ?_⟩
        intro j hj hlt
        rcases List.mem_cons.1 hj with rfl | hj
        · exact absurd hlt (lt_irrefl _)
        · exact absurd (hl.1 j hj) (not_lt.2 hlt.le)
      · rintro ⟨hi, hpi, hmin⟩
        rcases List.mem_cons.1 hi with rfl | hi
        · rfl
        · have := hmin a (by simp) (hl.1 i hi); rw [hp] at this; cases this
    · have hp' : p a = false := by simpa using hp
      simp only [hp']
      rw [ih hl.2]
      constructor
      · rintro ⟨hi, hpi, hmin⟩
        refine ⟨by simp [hi], hpi, ?_⟩
        intro j hj hlt
        rcases List.mem_cons.1 hj with rfl | hj
        · exact hp'
        · exact hmin j hj hlt
      · rintro ⟨hi, hpi, hmin⟩
        rcases List.mem_cons.1 hi with rfl | hi
        · rw [hpi] at hp'; cases hp'
        · exact ⟨hi, hpi, fun j hj => hmin j (by simp [hj])⟩

/-- `tfind` answers the lowest entry that satisfies the test. -/
theorem tfind_eq_some {α : Type} {n : Nat} (p : Fin n → α → Bool) (t : Table α n) (i : Fin n) :
    tfind p t = some i ↔ p i (tget t i) = true ∧ ∀ j, j < i → p j (tget t j) = false := by
  unfold tfind
  rw [find_lowest _ _ (List.pairwise_lt_finRange n)]
  simp

/-- `tfind` answers `none` exactly when no entry satisfies the test. -/
theorem tfind_eq_none {α : Type} {n : Nat} (p : Fin n → α → Bool) (t : Table α n) :
    tfind p t = none ↔ ∀ j, p j (tget t j) = false := by
  unfold tfind
  simp

/-- What a replacement does to a count of entries. -/
theorem tcount_tput {α} {n} (p : α → Bool) (t : Table α n) (i : Fin n) (x : α) :
    tcount (fun _ y => p y) (tput t i x) + (p (tget t i)).toNat = tcount (fun _ y => p y) t + (p x).toNat := by
  unfold tcount
  have key : ∀ l : List (Fin n), l.Nodup →
     (l.countP fun j => p (tget (tput t i x) j)) + (if i ∈ l then (p (tget t i)).toNat else 0)
       = (l.countP fun j => p (tget t j)) + (if i ∈ l then (p x).toNat else 0) := by
    intro l hl
    induction l with
    | nil => simp
    | cons a l ih =>
      rw [List.nodup_cons] at hl
      have := ih hl.2
      by_cases ha : i = a
      · subst ha
        simp only [List.countP_cons, tget_tput, if_true, List.mem_cons, true_or, hl.1, if_false] at *
        cases hpx : p x <;> cases hpt : p (tget t i) <;> simp <;> simpa using this
      · have hm : (i ∈ a :: l) ↔ i ∈ l := by simp [ha]
        simp only [List.countP_cons, tget_tput, ha, if_false, hm] at *
        omega
  have := key (List.finRange n) (List.nodup_finRange n)
  simpa using this

@[simp] theorem setStation_self (s : State) (n : StationNo) : s.setStation n (s.station n) = s := by
  unfold State.setStation State.station; rw [tput_tget]

/-! ## When a command is taken -/

/-- An access that the port serves acts. -/
theorem served_next {c h s act} (hs : portServes h s = true) : served c h s act = .next (act s) := by simp [served, hs]

/-- An access that the port does not serve is abandoned while a reset is held, and waits at the port otherwise. -/
theorem served_unserved {c : Instr} {h : HostId} {s : State} {act : State → State} (hs : portServes h s = false) :
    (portRefuses h s = true → served c h s act = .next s)
    ∧ (portRefuses h s = false → served c h s act = .next (waitAtPort c h s)) := by
  constructor <;> intro hr <;> simp [served, hs, hr]

/-- An event inside the part acts while the power-on reset input is released, and does nothing while it is held. -/
theorem internal_spec {s : State} {act : State → State} :
    (s.porst = false → internal s act = .next (act s)) ∧ (s.porst = true → internal s act = .next s) := by
  constructor <;> intro h <;> simp [internal, h]

/-! ## Arguments -/

theorem stationOf_some {b : Byte} {n : StationNo} (h : b.toNat = n.val + 1) : stationOf b = some n := by
  unfold stationOf
  have := n.isLt
  rw [dif_pos (by omega)]
  congr 1; apply Fin.ext; simp; omega

theorem stationOf_none {b : Byte} (h : b = 0 ∨ 32 ≤ b.toNat) : stationOf b = none := by
  unfold stationOf
  rw [dif_neg]
  rintro ⟨h1, h2⟩
  rcases h with rfl | h
  · simp at h1
  · omega

theorem entryOf_some {b : Byte} {n : EntryNo} (h : b.toNat = n.val) : entryOf b = some n := by
  unfold entryOf
  have := n.isLt
  rw [dif_pos (by omega)]
  congr 1; apply Fin.ext; simp; omega

theorem slotOf_some {b : Byte} {n : SlotNo} (h : b.toNat = n.val) : slotOf b = some n := by
  unfold slotOf
  have := n.isLt
  rw [dif_pos (by omega)]
  congr 1; apply Fin.ext; simp; omega

theorem bufferOf_some {b : Byte} {n : BufNo} (h : b.toNat = n.val) : bufferOf b = some n := by
  unfold bufferOf
  have := n.isLt
  rw [dif_pos (by omega)]
  congr 1; apply Fin.ext; simp; omega

theorem entryOf_none {b : Byte} (h : 16 ≤ b.toNat) : entryOf b = none := by
  unfold entryOf; rw [dif_neg]; omega

theorem slotOf_none {b : Byte} (h : 32 ≤ b.toNat) : slotOf b = none := by
  unfold slotOf; rw [dif_neg]; omega

/-! ## Ports and notices -/

/-- What a port writes with a result and returned bytes. -/
theorem answerWith_spec (h : HostId) (r : ResultCode) (off : Nat) (bytes : List Byte) (s : State) :
    ((answerWith h r off bytes s).port h).result = r
    ∧ (∀ k, arg h k (answerWith h r off bytes s)
        = if off ≤ k.val then (bytes[k.val - off]?).getD (arg h k s) else arg h k s)
    ∧ (∀ k, k ≠ h → (answerWith h r off bytes s).port k = s.port k)
    ∧ { answerWith h r off bytes s with ports := s.ports } = s := by
  refine ⟨by simp [answerWith], ?_, ?_, rfl⟩
  · intro k; simp [answerWith, arg]
  · intro k hk; simp [answerWith, Ne.symm hk]

/-- What a notice to one host changes. -/
theorem latch_spec (h : HostId) (src : NoticeSource) (s : State) :
    (∀ k, (latch h src s).notice k = if k = h then (s.notice h).latched src else s.notice k)
    ∧ { latch h src s with notices := s.notices } = s := by
  refine ⟨?_, rfl⟩
  intro k
  by_cases hk : h = k
  · subst hk; simp [latch]
  · simp [latch, hk, Ne.symm hk]

/-- What a notice to all hosts changes. -/
theorem latchAll_spec (src : NoticeSource) (s : State) :
    (∀ k, (latchAll src s).notice k = (s.notice k).latched src) ∧ { latchAll src s with notices := s.notices } = s :=
  ⟨fun k => by simp [latchAll, State.notice], rfl⟩

/-! ## Lending -/

/-- What a lend changes. -/
theorem lend_spec (a : Attacher) (request reply : Option BufNo) (s : State) : Lent a request reply s (lend a request reply s) :=
  ⟨rfl, fun b => by simp [lend, State.attachment]⟩

theorem attachedTo_iff (a : Attacher) (t : Option Attachment) : attachedTo a t = true ↔ ∃ x, t = some x ∧ x.attacher = a := by
  unfold attachedTo; cases t <;> simp

/-- What an unlend changes. -/
theorem unlend_spec (a s) : Unlent a s (unlend a s) := by
  refine ⟨rfl, ?_, ?_, ?_⟩
  · intro b hb
    have h1 : attachedTo a (s.attachment b) = true := (attachedTo_iff _ _).2 hb
    have h1' : attachedTo a (tget s.attached b) = true := h1
    refine ⟨by simp [unlend, State.attachment, h1'], ?_⟩
    by_cases ho : s.holder b = .orphaned <;> simp_all [unlend, State.holder, returnedBy]
  · intro b hb
    have h1 : attachedTo a (s.attachment b) = false := by
      rw [← Bool.not_eq_true, attachedTo_iff]; rintro ⟨x, h, h2⟩; exact hb x h h2
    have h1' : attachedTo a (tget s.attached b) = false := h1
    simp [unlend, State.attachment, State.holder, returnedBy, h1']
  · refine ⟨(List.finRange 96).filter (returnedBy a s), rfl, ?_, ?_⟩
    · exact (List.pairwise_lt_finRange 96).filter _
    · intro b; simp [returnedBy, attachedTo_iff]; tauto

/-! ## The window and the arbiter's order -/

/-- A window that is open. -/
theorem windowBuffer_open {h s b} (h1 : (s.port h).select.toNat = (b : BufNo).val) (h2 : s.holder b = .host h) (h3 : s.attachment b = none) :
    windowBuffer h s = some b := by
  simp [windowBuffer, bufferOf_some h1, windowOpen, h2, h3]

/-- A window access that is refused. -/
theorem windowBuffer_refused {h} {s : State} (hh : ∀ b : BufNo, (s.port h).select.toNat = b.val → s.holder b ≠ .host h ∨ s.attachment b ≠ none) :
    windowBuffer h s = none := by
  unfold windowBuffer bufferOf
  by_cases hl : (s.port h).select.toNat < 96
  · have := hh ⟨_, hl⟩ rfl
    rw [dif_pos hl]
    simp only
    rw [if_neg]
    simp only [windowOpen, Bool.and_eq_true, decide_eq_true_eq, Option.isNone_iff_eq_none]
    tauto
  · rw [dif_neg hl]

/-- The arbiter's next host claim. -/
theorem nextPort_servedNext (s h) (hs : servedNext h s) : nextPort s = some h := by
  obtain ⟨-, -, h2, d, h3, h4⟩ := hs
  unfold nextPort turns
  have key : ∀ e : Fin 4, e < d → (s.port (s.lastServed + 1 + e)).claim.isSome = false := fun e he => by rw [h4 e he]; rfl
  rw [h3] at h2
  match d, key, h2, h3 with
  | 0, key, h2, h3 => 
    simp only [add_zero] at h2 h3; simp [h2, h3]
  | 1, key, h2, h3 =>
    have a := key 0 (by decide)
    simp only [add_zero] at a; simp [a, h2, h3]
  | 2, key, h2, h3 =>
    have a := key 0 (by decide); have b := key 1 (by decide)
    simp only [add_zero] at a; simp [a, b, h2, h3]
  | 3, key, h2, h3 =>
    have a := key 0 (by decide); have b := key 1 (by decide); have c := key 2 (by decide)
    simp only [add_zero] at a; simp [a, b, c, h2, h3]

/-! ## The claim in service -/

/-- Whose claim is in service, as the port sees it. -/
theorem portInService_iff (h : HostId) (s : State) : portInService h s = true ↔ AccessInService h s := by
  unfold portInService AccessInService
  rcases hs : s.service with _ | ⟨_ | ⟨k, v⟩ | _, n⟩ <;> simp

/-- When the engine's next claim is kept waiting. -/
theorem engineKeptOut_iff (s : State) : engineKeptOut s = true ↔ EngineKeptOut s := by
  unfold engineKeptOut EngineKeptOut
  cases s.service <;> simp

/-- When the memory is free for the claim that comes next. -/
theorem memoryFree_iff (s : State) :
    memoryFree s = true ↔ (s.engineClaim ≠ none ∧ ¬ EngineKeptOut s) ∨ (s.engineClaim = none ∧ s.service = none) := by
  have := engineKeptOut_iff s
  unfold memoryFree
  cases s.engineClaim <;> simp [← this]

/-- What the arbiter can do: nothing while a claim in service holds the memory, else the engine's claim, else the next port's in turn, else nothing. -/
theorem arbiterServe_cases (s : State) :
    (memoryFree s = false ∧ arbiterServe s = s)
    ∨ (∃ c, s.engineClaim = some c ∧ ¬ EngineKeptOut s ∧ arbiterServe s = serveEngine c (takeEngineClaim c s))
    ∨ (∃ h c, s.service = none ∧ s.engineClaim = none ∧ nextPort s = some h ∧ (s.port h).claim = some c
        ∧ arbiterServe s = serveClaim h c (takeClaim h c s))
    ∨ (s.service = none ∧ s.engineClaim = none ∧ nextPort s = none ∧ arbiterServe s = s) := by
  unfold arbiterServe
  cases hf : memoryFree s with
  | false => exact .inl ⟨rfl, by simp⟩
  | true =>
    refine .inr ?_
    simp only [if_true, serveNext]
    rcases (memoryFree_iff s).1 hf with ⟨h1, h2⟩ | ⟨h1, h2⟩
    · obtain ⟨c, hc⟩ := Option.ne_none_iff_exists'.1 h1
      exact .inl ⟨c, hc, h2, by rw [hc]⟩
    · refine .inr ?_
      rw [h1]
      simp only [serveHost]
      cases hn : nextPort s with
      | none => exact .inr ⟨h2, trivial, rfl, rfl⟩
      | some h =>
        cases hc : (s.port h).claim with
        | none =>
          have := List.find?_some (show (turns (s.lastServed + 1)).find? (fun h => (s.port h).claim.isSome) = some h from hn)
          simp [hc] at this
        | some c => exact .inl ⟨h, c, h2, trivial, rfl, hc, by simp [hc]⟩

/-- What the assertion of its pin does to host `h`'s accesses: those that wait end, and the one in service is given back unanswered and holds the memory to its end. -/
theorem abandonAccess_spec (h : HostId) (s : State) :
    (¬ AccessInService h s → abandonAccess h s = s.setPort h (s.port h).withdrawn)
    ∧ (∀ v left, s.service = some ⟨.port h v, left⟩ →
      abandonAccess h s = { s.setPort h ((s.port h).withdrawn.showing v) with service := some ⟨.abandoned, left⟩ }) := by
  unfold abandonAccess AccessInService
  constructor
  · intro hn
    rcases hs : s.service with _ | ⟨_ | ⟨k, v⟩ | _, n⟩ <;> simp only []
    rw [if_neg]
    rintro rfl
    exact hn ⟨v, n, hs⟩
  · intro v left hs
    simp [hs]

end Sys2Proof.Machine
end

