-- ==== Sys2Proof/Laws/Exchanges.lean ====
section
/-! SUPPORT. What the shared operations of the Exchange Table, the Poll List, the holds and the scheduler do. -/

namespace Sys2Proof.Machine

/-! ## Placing and ending exchanges -/

/-- What a placement changes. -/
theorem place_spec (i : SlotNo) (x : Exchange) (s : State) : Placed i x s (place i x s) := rfl

/-- `freeSlot` answers the lowest FREE slot. -/
theorem freeSlot_spec (i : SlotNo) (s : State) : freeSlot s = some i ↔ lowestFree i s := by
  unfold freeSlot lowestFree
  rw [tfind_eq_some]
  simp [State.slot]

/-- What an entry into DONE changes. -/
theorem enterDone_spec (i x s) : EnteredDone i x s (enterDone i x s) := by
  refine ⟨_, unlend_spec _ _, ?_, ?_⟩
  · intro h; unfold enterDone; simp only []
    rw [if_pos]
    · rfl
    · exact h
  · intro h; unfold enterDone; simp only []
    rw [if_neg]
    have : (unlend (.slot i) { s with finish := s.finish + 1 }).queue x.owner = s.queue x.owner := rfl
    rw [this]; simp [Config.queueDepth]; omega

theorem oldest_none {age : SlotNo → Nat} : ∀ l, oldest age l = none → l = []
  | [], _ => rfl
  | i :: is, h => by unfold oldest at h; split at h <;> simp_all; split at h <;> simp_all

theorem oldest_some {age : SlotNo → Nat} : ∀ l k, oldest age l = some k → k ∈ l ∧ ∀ j ∈ l, age j ≤ age k
  | [], k, h => by simp [oldest] at h
  | i :: is, k, h => by
    unfold oldest at h
    split at h
    · next h0 => have := oldest_none is h0; subst this; simp at h; subst h; simp
    · next j h0 =>
      have := oldest_some is j h0
      split at h <;> simp at h <;> subst h
      · refine ⟨by simp, ?_⟩; intro j' hj'; rcases List.mem_cons.1 hj' with rfl | hj'; · exact le_refl _
        · have := this.2 j' hj'; omega
      · refine ⟨by simp [this.1], ?_⟩; intro j' hj'; rcases List.mem_cons.1 hj' with rfl | hj'; · omega
        · exact this.2 j' hj'

theorem oldest_unique {age : SlotNo → Nat} {l i} (hi : i ∈ l) (h : ∀ j ∈ l, j ≠ i → age j < age i) : oldest age l = some i := by
  cases hk : oldest age l with
  | none => rw [oldest_none l hk] at hi; simp at hi
  | some k =>
    obtain ⟨h1, h2⟩ := oldest_some l k hk
    by_cases hki : k = i
    · rw [hki]
    · have := h k h1 hki; have := h2 i hi; omega

/-- A due entry of the Poll List. -/
theorem due_spec (e : EntryNo) (s : State) : FellDue e s (due e s) := by
  unfold FellDue
  intro x missed inRelease
  have hw : releaseWindow x.owner s = true ↔ inRelease := by
    simp [releaseWindow, inRelease, x]
  have hm : moreMissed x.missed = missed := by
    simp only [moreMissed, missed]
    split <;> split <;> omega
  refine ⟨?_, ?_, ?_⟩
  · intro h
    unfold due
    rw [if_pos (hw.2 h)]
  · intro h hi
    unfold due
    rw [if_neg (fun hh => h (hw.1 hh))]
    cases hx : (s.entry e).inst with
    | some i =>
      simp only [← hm]
      simp [x]
    | none =>
      have hr : noRoom (s.entry e).owner s := hi.resolve_left (by simp [x, hx])
      have hc : createInstance e s = none := by
        unfold createInstance
        split
        · rfl
        · next hq =>
          have hn : freeSlot s = none := by
            unfold freeSlot
            rw [tfind_eq_none]
            intro j
            simpa [State.slot] using (hr.resolve_left hq) j
          rw [hn]
      simp only [← hm]
      simp [x, hc]
  · intro h hi hr
    unfold due
    rw [if_neg (fun hh => h (hw.1 hh))]
    have hi' : (s.entry e).inst = none := hi
    simp only [noRoom, not_or, not_le, not_forall, not_not] at hr
    obtain ⟨hq, j, hj⟩ := hr
    cases hf : freeSlot s with
    | none =>
      exfalso
      unfold freeSlot at hf
      rw [tfind_eq_none] at hf
      have := hf j
      simp [State.slot] at this hj
      exact this hj
    | some i =>
      refine ⟨i, place i (instanceRecord e s) s, (freeSlot_spec i s).1 hf, rfl, ?_⟩
      have hc : createInstance e s = some (i, place i (instanceRecord e s) s) := by
        unfold createInstance
        rw [if_neg (by exact Nat.not_le.2 hq), hf]
      simp [hi', hc, x]

/-! ## Hand-over of a hold -/

/-- Every waiter is at its limit: each is passed over. -/
theorem chooseWaiter_none (held : HostId → Nat) : ∀ ws : List Waiter, (∀ v ∈ ws, Config.holdLimit ≤ held v.host) →
    chooseWaiter held ws = (ws.map Waiter.host, none)
  | [], _ => rfl
  | v :: ws, h => by
    have hv := h v (by simp)
    have ih := chooseWaiter_none held ws fun w hw => h w (by simp [hw])
    simp [chooseWaiter, Nat.not_lt.2 hv, ih]

/-- The first waiter below its limit is chosen, and those before it are passed over. -/
theorem chooseWaiter_first (held : HostId → Nat) : ∀ (skipped : List Waiter) (w : Waiter) (rest : List Waiter),
    (∀ v ∈ skipped, Config.holdLimit ≤ held v.host) → held w.host < Config.holdLimit →
    chooseWaiter held (skipped ++ w :: rest) = (skipped.map Waiter.host, some (w, rest))
  | [], w, rest, _, hw => by simp [chooseWaiter, hw]
  | v :: skipped, w, rest, h, hw => by
    have hv := h v (by simp)
    have ih := chooseWaiter_first held skipped w rest (fun u hu => h u (by simp [hu])) hw
    simp [chooseWaiter, Nat.not_lt.2 hv, ih]

/-- What a hand-over of a station does, for every length of its wait list. -/
theorem handOver_spec (n : StationNo) (s : State) : HandedOver n s (handOver n s) := by
  intro k hk u
  refine ⟨?_, ?_⟩
  · intro hall
    have := chooseWaiter_none (fun h => heldCount h u) k.waiters hall
    simp only [handOver, hk]
    rw [show (s.setStation n { s.station n with hold := none }) = u from rfl, this]
  · intro sk w rest hw hall hlt
    have := chooseWaiter_first (fun h => heldCount h u) sk w rest hall hlt
    rw [← hw] at this
    simp only [handOver, hk]
    rw [show (s.setStation n { s.station n with hold := none }) = u from rfl, this]

/-! ## The order of the grants -/

theorem record_station {a : StationAddr} {n : StationNo} (h : a = n.address) : a.record = some n := by
  subst h; unfold StationAddr.record StationNo.address
  rw [dif_neg (by simp)]; simp

theorem record_broadcast {a : StationAddr} (h : a = 0) : a.record = none := by
  subst h; rfl

theorem address_cases (a : StationAddr) : a = 0 ∨ ∃ n : StationNo, a = n.address := by
  by_cases h : a.val = 0
  · left; exact Fin.ext h
  · right; have := a.isLt; exact ⟨⟨a.val - 1, by omega⟩, Fin.ext (by simp [StationNo.address]; omega)⟩

theorem openTo_iff (h x) : openTo h x = true ↔ ∀ k, x.hold = some k → k.holder = h := by
  unfold openTo; split <;> simp_all

theorem eligible_iff (s x) : eligible s x = true ↔ Grantable s x := by
  unfold eligible Grantable mayHaveLine
  rcases address_cases x.station with h | ⟨n, h⟩
  · rw [record_broadcast h]
    have : ∀ n : StationNo, x.station ≠ n.address := by
      intro n hn; rw [h] at hn; have := congrArg Fin.val hn; simp [StationNo.address] at this
    rw [h] at this
    simp [this, h, openTo_iff]
  · rw [record_station h]
    have h0 : x.station ≠ 0 := by
      intro hn; rw [h] at hn; have := congrArg Fin.val hn; simp [StationNo.address] at this
    have hinj : ∀ m : StationNo, x.station = m.address ↔ m = n := by
      intro m; rw [h]; constructor
      · intro hm; have := congrArg Fin.val hm; simp [StationNo.address] at this; exact Fin.ext this.symm
      · rintro rfl; rfl
    simp [hinj, h0, openTo_iff]
    intro _ _; tauto

theorem mem_candidates (c h s j) : j ∈ candidates c h s ↔ Grantable s (s.slot j) ∧ (s.slot j).cls = c ∧ (s.slot j).owner = h := by
  unfold candidates tfilter
  rw [List.mem_filter]
  simp only [List.mem_finRange, true_and, Bool.and_eq_true, decide_eq_true_eq]
  rw [show tget s.slots j = s.slot j from rfl, eligible_iff]; tauto

/-- A grantable exchange that goes before every other is the scheduler's choice. -/
theorem choose_first (s : State) (i) (hi : Grantable s (s.slot i))
    (hb : ∀ j, j ≠ i → Grantable s (s.slot j) → GoesBefore s (s.slot i) (s.slot j)) :
    choose s = some ((s.slot i).cls, i) := by
  have hempty : ∀ c h, classRank c < classRank (s.slot i).cls ∨ (c = (s.slot i).cls ∧ turnDistance (s.pointers.of c) h < turnDistance (s.pointers.of c) (s.slot i).owner) → oldestCandidate c s h = none := by
    intro c h hc
    have : candidates c h s = [] := by
      rw [List.eq_nil_iff_forall_not_mem]; intro j hj
      rw [mem_candidates] at hj
      obtain ⟨h1, h2, h3⟩ := hj
      have hne : j ≠ i := by rintro rfl; rcases hc with hc | ⟨_, hc⟩; · rw [h2] at hc; omega
                             · rw [h3] at hc; omega
      have := hb j hne h1
      unfold GoesBefore at this
      rw [h2, h3] at this
      rcases hc with hc | ⟨rfl, hc⟩
      · rcases this with h | ⟨h, _⟩
        · omega
        · rw [h] at hc; omega
      · rcases this with h | ⟨_, h | ⟨h, _⟩⟩
        · omega
        · omega
        · rw [h] at hc; omega
    unfold oldestCandidate; rw [this]; rfl
  have hself : oldestCandidate (s.slot i).cls s (s.slot i).owner = some i := by
    unfold oldestCandidate
    apply oldest_unique
    · rw [mem_candidates]; exact ⟨hi, rfl, rfl⟩
    · intro j hj hne
      rw [mem_candidates] at hj
      have := hb j hne hj.1
      unfold GoesBefore at this; rw [hj.2.1, hj.2.2] at this
      unfold submissionAge
      rcases this with h | ⟨_, h | ⟨_, h⟩⟩
      · omega
      · omega
      · exact h
  have hclass : choiceOfClass s (s.slot i).cls = some i := by
    unfold choiceOfClass turns
    generalize hp : s.pointers.of (s.slot i).cls = p at *
    have e : ∀ d : Fin 4, turnDistance p (p + d) = d.val := by intro d; unfold turnDistance; simp
    obtain ⟨d, hd⟩ : ∃ d : Fin 4, (s.slot i).owner = p + d := ⟨(s.slot i).owner - p, by simp⟩
    have hlow : ∀ f : Fin 4, f < d → oldestCandidate (s.slot i).cls s (p + f) = none := by
      intro f hf; apply hempty; right; refine ⟨rfl, ?_⟩; rw [hp, hd, e, e]; exact hf
    rw [hd] at hself
    have z : p + 0 = p := by simp
    match d, hlow, hself with
    | 0, hl, hs => rw [z] at hs; simp [hs]
    | 1, hl, hs => have a := hl 0 (by decide); rw [z] at a; simp [a, hs]
    | 2, hl, hs => have a := hl 0 (by decide); have b := hl 1 (by decide); rw [z] at a; simp [a, b, hs]
    | 3, hl, hs => have a := hl 0 (by decide); have b := hl 1 (by decide); have c := hl 2 (by decide); rw [z] at a; simp [a, b, c, hs]
  have hnone : ∀ c, classRank c < classRank (s.slot i).cls → choiceOfClass s c = none := by
    intro c hc; unfold choiceOfClass
    rw [List.findSome?_eq_none_iff]; intro h _; exact hempty c h (Or.inl hc)
  unfold choose
  cases hcl : (s.slot i).cls with
  | urgent => rw [hcl] at hclass; simp [hclass]
  | normal => rw [hcl] at hclass hnone; have := hnone .urgent (by decide); simp [hclass, this]
  | bulk => rw [hcl] at hclass hnone; have := hnone .urgent (by decide); have := hnone .normal (by decide); simp_all

theorem endsTaken_iff (s) : endsTaken s = true ↔ allTaken s := by
  unfold endsTaken allTaken; simp [and_assoc]

/-- With nothing grantable the scheduler chooses nothing. -/
theorem choose_none {s : State} (h : ∀ i, ¬ Grantable s (s.slot i)) : choose s = none := by
  have hc : ∀ c k, candidates c k s = [] := by
    intro c k; rw [List.eq_nil_iff_forall_not_mem]; intro j hj; rw [mem_candidates] at hj; exact h j hj.1
  unfold choose choiceOfClass oldestCandidate
  simp [hc, oldest]

end Sys2Proof.Machine
end

