-- ==== Sys2Proof/Laws/Line.lean ====
section
/-! SUPPORT. What the shared operations of the Line Engine and the Line Interface do. -/

namespace Sys2Proof.Machine

/-! ## The Line Engine -/

/-- What the beginning of an attempt changes, for the first of an exchange and for a retry. -/
theorem beginAttempt_spec (i q first s) (hq : q = if first then firstSequence (s.slot i).station s else s.engine.seqInUse) : AttemptBegun i q s (beginAttempt i first s) := by
  unfold AttemptBegun
  intro u
  unfold beginAttempt; simp only []
  rw [← hq]
  refine ⟨?_, ?_⟩
  · intro h
    unfold takeOrder; simp only []
    exact if_neg h
  · intro h
    unfold takeOrder; simp only []
    rw [if_pos (by simpa [State.setSlot, State.setEngine] using h)]
    have hr : runReached s.lif.run = true ↔ ∃ r, s.lif.run = some r ∧ r.reached = true := by
      cases s.lif.run <;> simp [runReached]
    simp [State.setSlot, State.setEngine, State.setLif, idleSending, bitClocks, charBits, staleChar, u, State.slot, hr]

/-- What an entry to QUIET changes. -/
theorem enterQuiet_spec (frame : Bool) (s : State) : InQuiet frame s (enterQuiet frame s) := rfl

/-- What an entry to IDLE changes. -/
theorem enterIdle_spec (s : State) : InIdle s (enterIdle s) := by
  constructor
  · intro h; simp [enterIdle, applyStaged, h]
  · intro x h; simp [enterIdle, applyStaged, h, applySettings]

/-- The outcome is that of the table of R105. -/
theorem outcomeOf_spec (broadcast : Bool) (r : AttemptResult) (cancel : Bool) :
    OutcomeByTable broadcast r cancel (outcomeOf broadcast r cancel) := by
  cases r <;> cases cancel <;> simp [OutcomeByTable, outcomeOf]

/-- What the end of an exchange changes. -/
theorem exchangeEnd_spec (i : SlotNo) (r : AttemptResult) (s : State) : ExchangeEnded i r s (exchangeEnd i r s) := by
  refine ⟨_, outcomeOf_spec _ r _, endOf i r s, rfl, rfl, rfl, ?_, ?_, reportOf i r s, ?_, ?_, rfl⟩
  · intro y hy hr
    simp [endOf, finalReply, hr, hy]
  · intro h
    have : finalReply r s = none := by
      unfold finalReply
      rcases h with h | ⟨h1, h2⟩
      · simp [h]
      · simp [h1, h2]
    simp [endOf, this]
  · intro h
    simp [reportOf, record_broadcast h]
  · intro n h
    refine ⟨((finalReply r s).map AcceptedReply.attention).getD false, by simp [reportOf, record_station h], ?_⟩
    intro y hy hr
    simp [finalReply, hr, hy]

/-- What the end of the current exchange's attempt changes. -/
theorem attemptEnd_spec {i : SlotNo} {r : AttemptResult} {s : State} (h : s.engine.current = some i) :
    AttemptEnded i r s (attemptEnd r s) := by
  unfold AttemptEnded
  intro u again
  have hd : retryIsDue r (s.slot i) = true ↔ again := by
    simp only [retryIsDue, retryable, again]
    simp [and_assoc]
  constructor
  · intro ha
    simp only [attemptEnd, h]
    rw [if_pos (hd.2 ha)]
    simp only [u, h]
  · intro ha
    simp only [attemptEnd, h]
    rw [if_neg (fun hh => ha (hd.1 hh))]
    have := exchangeEnd_spec i r u
    simp only [u, h] at this ⊢
    exact this

/-! ## The Line Interface -/

/-- What a cut changes while the frame is being sent. -/
theorem cut_spec {s : State} (h : s.lif.tx = .opening ∨ s.lif.tx = .characters) : CutBegun s.lif.reports s (cut s) := by
  unfold cut
  simp only []
  rw [if_pos h]
  refine ⟨rfl, ?_, ?_, rfl⟩
  · rintro ⟨b, o, hc⟩; simp [hc, dropFetch]
  · intro hn
    simp only
    cases hc : s.engineClaim with
    | none => rfl
    | some c =>
      cases c with
      | fetch b o => exact absurd hc (hn b o)
      | copy b n => rfl

/-- What the release of the driver, with its report, changes. -/
theorem releaseDriver_spec (r : Report) (s : State) :
    DriverReleased r s ((releaseDriver s).setLif ((releaseDriver s).lif.give r)) := rfl

/-- What the failure of a frame changes. -/
theorem failFrame_spec (reason : BadReason) (s : State) : FrameFailed reason s (failFrame reason s) := rfl

/-- What the beginning of a character changes. -/
theorem beginCharacter_spec (i : Nat) (v : Byte) (c : Word16) (p : Option Byte) (s : State) :
    CharacterBegun i v c p s (beginCharacter i v c p s) := by
  unfold CharacterBegun
  intro u
  constructor
  · intro k b h1 h2 h3 h4
    unfold beginCharacter placeFetch
    simp only []
    rw [if_pos ⟨h1, h2⟩]
    simp only [State.setLif_engine, State.setLif_slot, h3, h4]
    rfl
  · intro h
    unfold beginCharacter placeFetch
    simp only []
    rw [if_neg]
    · rfl
    · rintro ⟨h1, h2⟩
      have h2' : i - 2 < s.lif.sending.order.length := h2
      omega

/-- Where a received byte goes in the frame assembly buffer. -/
theorem storeCharacter_spec (b : Byte) (f : FrameBuffer) : ByteStored b f (storeCharacter b f) := by
  refine ⟨by simp [storeCharacter], by simp [storeCharacter], ?_, ?_, ?_, ?_, ?_, ?_⟩
  · unfold storeCharacter; simp only []; split <;> (try split) <;> (try split) <;> (try split) <;> (try split) <;> simp_all
  · unfold storeCharacter; simp only []; split <;> (try split) <;> (try split) <;> (try split) <;> (try split) <;> simp_all
  · unfold storeCharacter; simp only []; split <;> (try split) <;> (try split) <;> (try split) <;> (try split) <;> simp_all
  · intro hl k
    have hk := k.isLt
    unfold storeCharacter
    simp only []
    split
    · next h => simp [h]
    · split
      · next h => simp [h]
      · split
        · next h => simp [h]
        · split
          · next h1 h2 h3 h =>
            simp only [tget_tput, Fin.ext_iff]
            by_cases hh : f.count - 3 = k.val
            · rw [if_pos hh, if_pos ⟨by omega, by omega⟩]
            · rw [if_neg hh, if_neg (by rintro ⟨h4, _⟩; omega)]
          · next h1 h2 h3 h =>
            have hn : ¬ (f.count = k.val + 3 ∧ k.val < f.length.toNat) := fun h4 => h ⟨by omega, by omega⟩
            rw [if_neg hn]
            split <;> rfl
  · intro h3
    unfold storeCharacter
    simp only []
    rw [if_neg (by omega), if_neg (by omega), if_neg (by omega)]
    split
    · next h => rw [if_neg (by omega)]
    · split <;> simp_all
  · intro h3 hl
    unfold storeCharacter
    simp only []
    rw [if_neg (by omega), if_neg (by omega), if_neg (by omega)]
    split
    · next h => rw [if_neg (by omega)]
    · next h =>
      split
      · next h' => rw [if_neg (by omega)]
      · next h' => rw [if_pos (by omega)]

end Sys2Proof.Machine
end

