-- ==== Sys2Proof/Laws/PerInstr.lean ====
section
/-! SUPPORT. Statements over every command as syntax, one lemma for each. -/

set_option Elab.async false

namespace Sys2Proof.Laws.WellFormed

/-- The two rows whose operands could name another row's access are the only ones that can be ill formed: a BAD_COMMAND with a code the port knows, and a PORT_REGISTER_WRITE to the window, the command location or the notice mask (R168, R170; log 27). -/
def Statement (i : Instr) : Prop :=
  i.wellFormed = true ↔
    (∀ h code, i = .badCommand h code → Machine.knownCommand code = false)
    ∧ ∀ h location value, i = .portRegisterWrite h location value →
        0x40 ≤ location.toNat ∧ location ≠ 0x41 ∧ location ≠ 0x44

theorem bufAlloc (h : HostId) : Statement (.bufAlloc h) := by simp [Statement, Instr.wellFormed]
theorem bufFree (h : HostId) : Statement (.bufFree h) := by simp [Statement, Instr.wellFormed]
theorem submit (h : HostId) : Statement (.submit h) := by simp [Statement, Instr.wellFormed]
theorem cancel (h : HostId) : Statement (.cancel h) := by simp [Statement, Instr.wellFormed]
theorem readExchange (h : HostId) : Statement (.readExchange h) := by simp [Statement, Instr.wellFormed]
theorem readStation (h : HostId) : Statement (.readStation h) := by simp [Statement, Instr.wellFormed]
theorem subscribe (h : HostId) : Statement (.subscribe h) := by simp [Statement, Instr.wellFormed]
theorem unsubscribe (h : HostId) : Statement (.unsubscribe h) := by simp [Statement, Instr.wellFormed]
theorem revive (h : HostId) : Statement (.revive h) := by simp [Statement, Instr.wellFormed]
theorem hold (h : HostId) : Statement (.hold h) := by simp [Statement, Instr.wellFormed]
theorem release (h : HostId) : Statement (.release h) := by simp [Statement, Instr.wellFormed]
theorem pollStart (h : HostId) : Statement (.pollStart h) := by simp [Statement, Instr.wellFormed]
theorem pollRetime (h : HostId) : Statement (.pollRetime h) := by simp [Statement, Instr.wellFormed]
theorem pollStop (h : HostId) : Statement (.pollStop h) := by simp [Statement, Instr.wellFormed]
theorem readPoll (h : HostId) : Statement (.readPoll h) := by simp [Statement, Instr.wellFormed]
theorem popCompletion (h : HostId) : Statement (.popCompletion h) := by simp [Statement, Instr.wellFormed]
theorem setSettings (h : HostId) : Statement (.setSettings h) := by simp [Statement, Instr.wellFormed]
theorem readSettings (h : HostId) : Statement (.readSettings h) := by simp [Statement, Instr.wellFormed]
theorem lineReset (h : HostId) : Statement (.lineReset h) := by simp [Statement, Instr.wellFormed]
theorem readLine (h : HostId) : Statement (.readLine h) := by simp [Statement, Instr.wellFormed]
theorem clearStats (h : HostId) : Statement (.clearStats h) := by simp [Statement, Instr.wellFormed]
theorem badCommand (h : HostId) (code : Byte) : Statement (.badCommand h code) := by simp [Statement, Instr.wellFormed]
theorem noticeCodeRead (h : HostId) : Statement (.noticeCodeRead h) := by simp [Statement, Instr.wellFormed]
theorem noticeMaskWrite (h : HostId) (value : Byte) : Statement (.noticeMaskWrite h value) := by simp [Statement, Instr.wellFormed]
theorem portStatusRead (h : HostId) : Statement (.portStatusRead h) := by simp [Statement, Instr.wellFormed]
theorem portRegisterWrite (h : HostId) (location : BitVec 7) (value : Byte) : Statement (.portRegisterWrite h location value) := by simp [Statement, Instr.wellFormed, plainLocation, and_assoc]
theorem windowRead (h : HostId) (offset : Fin 64) : Statement (.windowRead h offset) := by simp [Statement, Instr.wellFormed]
theorem windowWrite (h : HostId) (offset : Fin 64) (value : Byte) : Statement (.windowWrite h offset value) := by simp [Statement, Instr.wellFormed]
theorem arbiterServe : Statement .arbiterServe := by simp [Statement, Instr.wellFormed]
theorem powerOnReset : Statement .powerOnReset := by simp [Statement, Instr.wellFormed]
theorem hostPortResetAssert (h : HostId) : Statement (.hostPortResetAssert h) := by simp [Statement, Instr.wellFormed]
theorem hostPortResetRelease (h : HostId) : Statement (.hostPortResetRelease h) := by simp [Statement, Instr.wellFormed]
theorem xtabResetPart (h : HostId) : Statement (.xtabResetPart h) := by simp [Statement, Instr.wellFormed]
theorem bpoolResetPart (h : HostId) : Statement (.bpoolResetPart h) := by simp [Statement, Instr.wellFormed]
theorem plstResetPart (h : HostId) : Statement (.plstResetPart h) := by simp [Statement, Instr.wellFormed]
theorem stabResetPart (h : HostId) : Statement (.stabResetPart h) := by simp [Statement, Instr.wellFormed]
theorem cqResetPart (h : HostId) : Statement (.cqResetPart h) := by simp [Statement, Instr.wellFormed]
theorem nctlResetPart (h : HostId) : Statement (.nctlResetPart h) := by simp [Statement, Instr.wellFormed]
theorem portResetPart (h : HostId) : Statement (.portResetPart h) := by simp [Statement, Instr.wellFormed]
theorem tick : Statement .tick := by simp [Statement, Instr.wellFormed]
theorem replyTimerExpiry : Statement .replyTimerExpiry := by simp [Statement, Instr.wellFormed]
theorem leaseExpiry (station : StationNo) : Statement (.leaseExpiry station) := by simp [Statement, Instr.wellFormed]
theorem pollDue (entry : EntryNo) : Statement (.pollDue entry) := by simp [Statement, Instr.wellFormed]
theorem guardRunOut : Statement .guardRunOut := by simp [Statement, Instr.wellFormed]
theorem schedulerRun : Statement .schedulerRun := by simp [Statement, Instr.wellFormed]
theorem openingBreakEnd : Statement .openingBreakEnd := by simp [Statement, Instr.wellFormed]
theorem characterSent : Statement .characterSent := by simp [Statement, Instr.wellFormed]
theorem echoCollision : Statement .echoCollision := by simp [Statement, Instr.wellFormed]
theorem frameSent : Statement .frameSent := by simp [Statement, Instr.wellFormed]
theorem cutBreakEnd : Statement .cutBreakEnd := by simp [Statement, Instr.wellFormed]
theorem breakDetected : Statement .breakDetected := by simp [Statement, Instr.wellFormed]
theorem breakEnd : Statement .breakEnd := by simp [Statement, Instr.wellFormed]
theorem characterTaken (value : Byte) : Statement (.characterTaken value) := by simp [Statement, Instr.wellFormed]
theorem framingError : Statement .framingError := by simp [Statement, Instr.wellFormed]
theorem gapLimit : Statement .gapLimit := by simp [Statement, Instr.wellFormed]
theorem stuckDetected : Statement .stuckDetected := by simp [Statement, Instr.wellFormed]
theorem lineRecovered : Statement .lineRecovered := by simp [Statement, Instr.wellFormed]
theorem sentReport : Statement .sentReport := by simp [Statement, Instr.wellFormed]
theorem collisionReport : Statement .collisionReport := by simp [Statement, Instr.wellFormed]
theorem cutCompleteReport : Statement .cutCompleteReport := by simp [Statement, Instr.wellFormed]
theorem frameStartReport : Statement .frameStartReport := by simp [Statement, Instr.wellFormed]
theorem frameCompleteReport : Statement .frameCompleteReport := by simp [Statement, Instr.wellFormed]
theorem badFrameReport : Statement .badFrameReport := by simp [Statement, Instr.wellFormed]
theorem stuckReport : Statement .stuckReport := by simp [Statement, Instr.wellFormed]
theorem recoveryReport : Statement .recoveryReport := by simp [Statement, Instr.wellFormed]
theorem exchangeEndTaken : Statement .exchangeEndTaken := by simp [Statement, Instr.wellFormed]
theorem exchangeEndReport : Statement .exchangeEndReport := by simp [Statement, Instr.wellFormed]
theorem stationFlush : Statement .stationFlush := by simp [Statement, Instr.wellFormed]
theorem instanceEnd : Statement .instanceEnd := by simp [Statement, Instr.wellFormed]
theorem halfBitSample : Statement .halfBitSample := by simp [Statement, Instr.wellFormed]
theorem markToSpaceEdge : Statement .markToSpaceEdge := by simp [Statement, Instr.wellFormed]
theorem spaceToMarkEdge : Statement .spaceToMarkEdge := by simp [Statement, Instr.wellFormed]
theorem powerOnResetRelease : Statement .powerOnResetRelease := by simp [Statement, Instr.wellFormed]

end Sys2Proof.Laws.WellFormed
end

