-- ==== Sys2Proof/Laws/Receiver.lean ====
section
/-! SUPPORT. What is due at the receiver, what catching up with it does, and what a clock period does to the Line Interface, said once for each. -/

namespace Sys2Proof.Machine

/-! ## What is due -/

theorem dueIf_none {α : Type} (p : Bool) (e : α) : dueIf p e = none ↔ p = false := by cases p <;> simp [dueIf]

theorem dueIf_some {α : Type} (p : Bool) (e x : α) : dueIf p e = some x ↔ p = true ∧ e = x := by cases p <;> simp [dueIf]

/-- Nothing is due at the receiver exactly when no measure of it has run its time. -/
theorem dueReceive_none (l : Lif) : dueReceive l = none ↔ LineSettled l := by
  unfold dueReceive LineSettled
  rw [Option.or_eq_none_iff, Option.or_eq_none_iff, Option.or_eq_none_iff]
  refine and_congr ?_ (and_congr ?_ (and_congr ?_ ?_))
  · unfold dueCharacter
    cases l.char with
    | none => simp
    | some c =>
      simp only [RxChar.whole, bitMiddle]
      split_ifs <;> simp only [dueIf_none] <;> grind
  · unfold dueRun
    cases l.run with
    | none => simp
    | some r =>
      have h11 : Config.breakDetectBits = 11 := rfl
      have h4 : stuckLimit r = 4 * r.charBits * r.bit := rfl
      simp only []
      by_cases h1 : (!r.reached && decide (Config.breakDetectBits * r.bit ≤ r.elapsed)
          && decide (l.rx ≠ .stuck ∧ l.rx ≠ .inBreak)) = true
      · rw [if_pos h1]
        simp only [Bool.and_eq_true, Bool.not_eq_true', decide_eq_true_eq, h11] at h1
        refine ⟨fun h => absurd h (by simp), fun h => ?_⟩
        have := (h r rfl).1 h1.1.1 h1.2.1 h1.2.2
        omega
      · rw [if_neg h1, dueIf_none]
        constructor
        · rintro h r' hr
          obtain rfl : r = r' := by simpa using hr
          constructor
          · intro a b c; rw [h11] at h1; simp [a, b, c] at h1; exact h1
          · intro a b
            have : decide (l.rx = .hunt ∨ l.rx = .inBreak ∨ l.rx = .assembling) = true := by simpa using b
            rw [a, this, h4] at h; simpa using h
        · intro h
          have h2 := (h r rfl).2
          by_contra hc
          simp only [Bool.not_eq_false, Bool.and_eq_true, decide_eq_true_eq, h4] at hc
          have := h2 hc.1.1 hc.1.2
          omega
  · unfold dueGap
    cases l.gap with
    | none => simp
    | some g => simp only [dueIf_none]; grind
  · unfold dueRecovery
    cases l.marking with
    | none => simp
    | some m => simp only [dueIf_none]; grind

/-! ## Catching up -/

/-- A gap that may still pass its limit. -/
def gapToCome (g : Option Gap) : Nat := match g with | none => 0 | some g => if g.passed then 0 else 1

@[simp] theorem gapToCome_none : gapToCome none = 0 := rfl

theorem gapToCome_le (g : Option Gap) : gapToCome g ≤ 1 := by
  unfold gapToCome
  (repeat' split) <;> omega

/-- How much may still become due at the receiver without a clock period. -/
def toCome (l : Lif) : Nat :=
  (match l.char with | none => 0 | some c => if c.valid then 2 else 3)
  + (match l.run with | none => 0 | some r => if r.reached then 0 else 1)
  + gapToCome l.gap
  + (if l.rx = .stuck then (if l.marking.isSome then 2 else 0) else (if l.run.isSome then 1 else 0))

theorem toCome_le (l : Lif) : toCome l ≤ 8 := by
  unfold toCome
  have := gapToCome_le l.gap
  (repeat' split) <;> omega

theorem cut_lif (s : State) :
    (cut s).lif.char = s.lif.char ∧ (cut s).lif.run = s.lif.run ∧ (cut s).lif.gap = s.lif.gap
    ∧ (cut s).lif.marking = s.lif.marking ∧ (cut s).lif.rx = s.lif.rx ∧ (cut s).lif.input = s.lif.input
    ∧ (cut s).porst = s.porst ∧ (cut s).active = s.active := by
  unfold cut; simp only []; split <;> simp

theorem assemble_lif (b : Byte) (k : Nat) (s : State) :
    (assemble b k s).lif.char = s.lif.char ∧ (assemble b k s).lif.run = s.lif.run
    ∧ (assemble b k s).lif.marking = s.lif.marking ∧ (assemble b k s).lif.input = s.lif.input
    ∧ (assemble b k s).porst = s.porst ∧ (assemble b k s).active = s.active
    ∧ (s.lif.rx = .assembling → (assemble b k s).lif.rx ≠ .stuck) := by
  unfold assemble failFrame
  simp only []
  split_ifs <;> simp +contextual [Lif.give]

/-- A receiver's event that is due leaves less to come, and the pin levels and the settings as they are. -/
theorem act_toCome {s : State} {e : RxEvent} (h : dueReceive s.lif = some e) :
    toCome (e.act s).lif < toCome s.lif ∧ (e.act s).lif.input = s.lif.input ∧ (e.act s).porst = s.porst
    ∧ (e.act s).active = s.active := by
  unfold dueReceive at h
  rw [Option.or_eq_some_iff] at h
  rcases h with h | ⟨_, h⟩
  · unfold dueCharacter at h
    cases hc : s.lif.char with
    | none => simp [hc] at h
    | some c =>
      rw [hc] at h
      simp only [] at h
      split_ifs at h with h1 h2 <;> rw [dueIf_some] at h <;> obtain ⟨hd, rfl⟩ := h
      · have hv : c.valid = false := by simpa using h1
        cases hi : s.lif.input <;> by_cases hx : s.lif.rx = .assembling <;> by_cases hg : gapPassed s.lif.gap = true <;>
          simp [RxEvent.act, halfBitSample, hc, hv, hi, hx, hg, failFrame, toCome, Lif.give] <;> grind
      · have hv : c.valid = true := by simpa using h1
        simp only [RxEvent.act, framingError, hc, hv, hd, h2, true_or, and_self, failFrame, toCome]
        cases hx : s.lif.rx <;> cases hf : c.fresh <;> simp [Lif.give, hx, hd] <;> grind
      · have hv : c.valid = true := by simpa using h1
        simp only [RxEvent.act, characterTaken, hc, hv, hd, toCome]
        have hh : s.lif.rx = .assembling ∨ s.lif.rx ≠ .assembling := em _
        rcases hh with hx | hx
        · have ha := assemble_lif c.value (c.bit / 2) (s.setLif { s.lif with char := none })
          simp only [h2, hx] at ha ⊢
          simp only [State.setLif_lif, State.setLif_porst, State.setLif_active] at ha
          simp only [true_and, true_or, Bool.false_eq_true, not_false_eq_true, if_true]
          obtain ⟨h1, h3, h4, h5, h6, h7, h8⟩ := ha
          refine ⟨?_, h5, h6, h7⟩
          rw [h1, h3, h4, if_neg (h8 trivial)]
          simp only [reduceCtorEq, if_false]
          have := gapToCome_le (assemble c.value (c.bit / 2) (s.setLif { s.lif with rx := .assembling, char := none })).lif.gap
          simp only [] at this ⊢
          omega
        · cases hx' : s.lif.rx <;> cases hf : c.fresh <;> simp [h2] <;> grind
  · rw [Option.or_eq_some_iff] at h
    rcases h with h | ⟨_, h⟩
    · unfold dueRun at h
      cases hr : s.lif.run with
      | none => simp [hr] at h
      | some r =>
        rw [hr] at h
        simp only [] at h
        split_ifs at h with h1
        · obtain rfl : RxEvent.brk = e := by simpa using h
          simp only [Bool.and_eq_true, Bool.not_eq_true', decide_eq_true_eq] at h1
          obtain ⟨⟨hn, _⟩, hs, hi⟩ := h1
          have hcut := cut_lif ((s.setLif { s.lif with run := some { r with reached := true }, char := none }).setLif
            ((s.setLif { s.lif with run := some { r with reached := true }, char := none }).lif.give .collision))
          simp only [State.setLif_lif, State.setLif_porst, State.setLif_active, Lif.give] at hcut
          obtain ⟨c1, c2, c3, c4, c5, c6, c7, c8⟩ := hcut
          simp only [RxEvent.act, breakDetected, hr, hn, toCome]
          cases hx : s.lif.rx
          · simp [openFrame, Lif.give]
          · exact absurd hx hi
          · simp [openFrame, Lif.give]
          · cases ht : s.lif.tx
            · simp
            · simp
            · simp only [collide, reduceCtorEq, if_false, if_true, Bool.false_eq_true]
              simp only [State.setLif_lif, State.setLif_porst, State.setLif_active, Lif.give, hx, ht] at *
              simp only [c1, c2, c3, c4, c5, c6, c7, c8]
              simp
            · simp
          · exact absurd hx hs
        · rw [dueIf_some] at h
          obtain ⟨hd, rfl⟩ := h
          simp only [Bool.and_eq_true, decide_eq_true_eq] at hd
          simp only [RxEvent.act, stuckDetected, toCome, hr]
          rw [if_pos ⟨hd.1.1, rfl, hd.1.2⟩]
          have hn : s.lif.rx ≠ .stuck := by rcases hd.1.2 with h | h | h <;> simp [h]
          simp [Lif.give, hn]
          grind
    · rw [Option.or_eq_some_iff] at h
      rcases h with h | ⟨_, h⟩
      · unfold dueGap at h
        cases hg : s.lif.gap with
        | none => simp [hg] at h
        | some g =>
          rw [hg] at h
          simp only [dueIf_some, Bool.and_eq_true, decide_eq_true_eq, Bool.not_eq_true'] at h
          obtain ⟨⟨⟨h1, h2⟩, h3⟩, rfl⟩ := h
          simp only [RxEvent.act, gapLimit, h1, hg, h2, failFrame, toCome, gapToCome]
          by_cases hc : s.lif.char.isSome = true
          · simp [hc]
          · simp [hc, Lif.give]
      · unfold dueRecovery at h
        cases hm : s.lif.marking with
        | none => simp [hm] at h
        | some m =>
          rw [hm] at h
          simp only [dueIf_some, Bool.and_eq_true, decide_eq_true_eq] at h
          obtain ⟨⟨h1, h2⟩, rfl⟩ := h
          simp only [RxEvent.act, lineRecovered, h1, hm, toCome]
          simp [Lif.give]
          grind

/-- The meaning of a receiver's event is what its command does while the power-on reset input is released. -/
theorem exec_command {s : State} (e : RxEvent) (hp : s.porst = false) : exec e.command s = .next (e.act s) := by
  cases e <;> exact (internal_spec).1 hp

/-- With fuel for all that may still come, catching up takes every due event and leaves the pin levels and the settings as they are. -/
theorem takeDue_spec : ∀ (n : Nat) (s : State), s.porst = false → toCome s.lif ≤ n →
    CaughtUp s (takeDue n s) ∧ LineSettled (takeDue n s).lif ∧ (takeDue n s).lif.input = s.lif.input
    ∧ (takeDue n s).porst = false ∧ (takeDue n s).active = s.active := by
  intro n
  induction n with
  | zero =>
    intro s hp hn
    have : dueReceive s.lif = none := by
      cases h : dueReceive s.lif with
      | none => rfl
      | some e => have := (act_toCome h).1; omega
    have hs := (dueReceive_none _).1 this
    exact ⟨.settled s hs, hs, rfl, hp, rfl⟩
  | succ n ih =>
    intro s hp hn
    unfold takeDue
    cases h : dueReceive s.lif with
    | none =>
      have hs := (dueReceive_none _).1 h
      exact ⟨.settled s hs, hs, rfl, hp, rfl⟩
    | some e =>
      obtain ⟨h1, h2, h3, h4⟩ := act_toCome h
      obtain ⟨i1, i2, i3, i4, i5⟩ := ih (e.act s) (h3.trans hp) (by omega)
      exact ⟨.next e s _ _ h (exec_command e hp) i1, i2, i3.trans h2, i4, i5.trans h4⟩

/-- What catching up does. -/
theorem catchUp_spec {s : State} (hp : s.porst = false) :
    CaughtUp s (catchUp s) ∧ LineSettled (catchUp s).lif ∧ (catchUp s).lif.input = s.lif.input
    ∧ (catchUp s).porst = false ∧ (catchUp s).active = s.active :=
  takeDue_spec 8 s hp (toCome_le _)

/-- With nothing due, catching up changes nothing. -/
theorem catchUp_settled {s : State} (h : LineSettled s.lif) : catchUp s = s := by
  unfold catchUp takeDue
  rw [(dueReceive_none _).2 h]

/-! ## One clock period -/

/-- The middle of a bit, as the count finds it. -/
theorem middle_iff {bit e j : Nat} (he : 0 < e) : e = j * bit + bit / 2 ↔ e % bit = bit / 2 ∧ e / bit = j := by
  rcases Nat.eq_zero_or_pos bit with rfl | hb
  · simp; omega
  · have hlt : bit / 2 < bit := by omega
    constructor
    · rintro rfl
      rw [Nat.add_comm, Nat.add_mul_mod_self_right, Nat.add_mul_div_right _ _ hb]
      exact ⟨Nat.mod_eq_of_lt hlt, by rw [Nat.div_eq_of_lt hlt]; omega⟩
    · rintro ⟨h1, rfl⟩
      have := Nat.div_add_mod e bit
      rw [h1, Nat.mul_comm] at this
      exact this.symm

theorem withDataBit_bit (v : Byte) (k : Nat) (hk : k < 8) (input : Bool) (j : Nat) :
    (withDataBit v k input).getLsbD j = if j = k then input else v.getLsbD j := by
  unfold withDataBit noticeBit
  by_cases hj : j < 8
  · interval_cases k <;> interval_cases j <;> cases input <;> simp
  · have h1 : ∀ w : Byte, w.getLsbD j = false := fun w => BitVec.getLsbD_of_ge w j (by omega)
    rw [h1, h1, if_neg (by omega)]

/-- A character's measure after one clock period. -/
theorem rxClocked_spec (input : Bool) (c : RxChar) : CharClocked input c (c.clocked input) := by
  have hm : ∀ j, c.elapsed + 1 = j * c.bit + c.bit / 2 ↔ (c.elapsed + 1) % c.bit = c.bit / 2 ∧ (c.elapsed + 1) / c.bit = j :=
    fun j => middle_iff (Nat.succ_pos _)
  unfold CharClocked RxChar.clocked RxChar.sampled
  simp only [hm]
  refine ⟨?_, ?_, ?_, ?_, ?_, ?_, ?_, ?_⟩
  · split_ifs <;> rfl
  · split_ifs <;> rfl
  · split_ifs <;> rfl
  · split_ifs <;> rfl
  · split_ifs <;> rfl
  · rintro j h1 h8 ⟨hv, hh, rfl⟩
    rw [if_pos ⟨hv, hh, by omega⟩, if_neg (by omega), if_pos h8]
    refine ⟨fun k => ?_, rfl⟩
    simp only []
    rw [withDataBit_bit _ _ (by omega)]
    by_cases hk : k + 1 = (c.elapsed + 1) / c.bit
    · rw [if_pos (by omega), if_pos hk]
    · rw [if_neg (by omega), if_neg hk]
  · rintro j h1 h8 ⟨hv, hh, rfl⟩
    rw [if_pos ⟨hv, hh, by omega⟩, if_neg (by omega), if_neg (by omega)]
    exact ⟨rfl, rfl⟩
  · intro h
    split_ifs with h1 h2
    · exact ⟨rfl, rfl⟩
    · exact absurd ⟨h1.1, h1.2.1, rfl⟩ (h ((c.elapsed + 1) / c.bit) (Nat.pos_of_ne_zero h2) h1.2.2)
    · exact absurd ⟨h1.1, h1.2.1, rfl⟩ (h ((c.elapsed + 1) / c.bit) (Nat.pos_of_ne_zero h2) h1.2.2)
    · exact ⟨rfl, rfl⟩

/-- What is being sent after one clock period. -/
theorem sendingClocked_spec (tx : TxSide) (input : Bool) (d : Sending) : SendingClocked tx input d (d.clocked tx input) := by
  cases tx
  · rfl
  · have hm : markSample d = 17 * d.bit + d.bit / 2 := rfl
    unfold Sending.clocked SendingClocked Sending.openingClocked
    simp only [hm]
    constructor
    · intro h1 h2 h3; simp [h1, h2, h3]
    · intro h
      rw [if_neg]
      simp only [Bool.and_eq_true, Bool.not_eq_true', decide_eq_true_eq]
      rintro ⟨⟨h1, h2⟩, h3⟩
      rcases h with h | h | h
      · rw [h1] at h; cases h
      · rw [h2] at h; cases h
      · omega
  · rfl
  · unfold Sending.clocked SendingClocked
    simp only []
    constructor
    · intro h; simp [h]
    · intro h; simp [h]

/-- What one clock period does to the Line Interface. -/
theorem lifClocked_spec (limit : Nat) (l : Lif) : LineClocked limit l (l.clocked limit) := by
  refine ⟨rfl, rfl, rfl, rfl, rfl, sendingClocked_spec _ _ _, ?_, ?_, ?_, ?_, ?_, ?_, ?_⟩
  · intro h; simp [Lif.clocked, h]
  · intro r h; simp [Lif.clocked, h, SpacingRun.clocked, stuckLimit, Config.stuckCharacters]; rfl
  · intro h; simp [Lif.clocked, h]
  · intro r h; simp [Lif.clocked, h, MarkPeriod.clocked]
  · intro h; simp [Lif.clocked, h]
  · intro c h
    refine ⟨_, rxClocked_spec l.input c, ?_, ?_⟩
    · rintro ⟨h1, h2, h3⟩
      have hs : settles l.input (c.clocked l.input) = true := by
        unfold settles
        rw [h1, decide_eq_true (show Config.breakDetectBits * _ ≤ _ from h3)]
        simp [h2]
      refine ⟨by simp [Lif.clocked, h, hs], fun hx => ?_⟩
      simp [Lif.clocked, Lif.gapClocked, h, hs, hx, gapAfter, characterBits]
    · intro hh
      have hs : settles l.input (c.clocked l.input) = false := by
        unfold settles
        rcases hh with hh | hh | hh
        · simp [hh]
        · simp [hh]
        · have : ¬ (Config.breakDetectBits * (c.clocked l.input).bit ≤ (c.clocked l.input).elapsed) := by
            show ¬ (11 * _ ≤ _); omega
          simp [this]
      simp [Lif.clocked, h, hs]
  · intro hh
    have hg : (fun g : Gap => if g.elapsed < g.limit then { g with elapsed := g.elapsed + 1 } else g) = Gap.clocked := rfl
    rw [hg]
    cases hc : l.char with
    | none => simp [Lif.clocked, Lif.gapClocked, hc]
    | some c =>
      cases hs : settles l.input (c.clocked l.input)
      · simp [Lif.clocked, Lif.gapClocked, hc, hs]
      · have h1 : l.rx ≠ .assembling := by
          rcases hh with hh | hh | hh
          · exact hh
          · rw [hc] at hh; cases hh
          · exact absurd (by simp [Lif.clocked, hc, hs]) hh
        simp [Lif.clocked, Lif.gapClocked, hc, h1]

end Sys2Proof.Machine
end

