-- ==== Sys2Proof/Tests/Slice0.lean ====
section
/-! SUPPORT. Our own tests: the smoke tests of WellFormed, small steps with results taken from the manual, and for every statement with hypotheses a state that meets them. -/

set_option Elab.async false

namespace Sys2Proof.Tests

open Sys2Proof.Machine

/-! ## Small states -/

/-- Host `h`'s parameter area with the given bytes from offset 0 on. -/
def withArgs (h : HostId) (bytes : List Byte) (s : State) : State :=
  s.setPort h { s.port h with params := overlay (s.port h).params 0 bytes }

/-- The part after reset with the engine in a state. -/
def inState (e : EngineState) : State := { State.reset with engine := { State.reset.engine with state := e } }

/-- The part with the engine in IDLE. -/
def idle : State := inState .idle

/-- A station's state. -/
def withStation (n : StationNo) (x : StationState) (s : State) : State :=
  s.setStation n { s.station n with state := x }

/-- A hold on a station. -/
def withHold (n : StationNo) (k : Hold) (s : State) : State := s.setStation n { s.station n with hold := some k }

/-- A QUEUED exchange of host 0 to station 1, and one like it in a state. -/
def queuedX : Exchange := { freeExchange with state := .queued, owner := 0, tag := some 0x1234, station := 1, cls := .bulk }
def xIn (x : ExState) : Exchange := { queuedX with state := x }

/-- An ARMED entry of host 0 on station 1. -/
def armedE : PollEntry := { unusedEntry with state := .armed, station := 1, period := 10, countdown := 5 }

/-- The engine with an exchange in slot 0 as its current one. -/
def onLine0 (e : EngineState) (x : Exchange) : State :=
  let s := State.reset.setSlot 0 x
  { s with engine := { s.engine with state := e, current := some 0 } }

/-- Reports given and not yet taken. -/
def withReports (r : List Report) (s : State) : State := s.setLif { s.lif with reports := r }

/-- Buffer 0 in host 0's hands, with select 0. -/
def buf0 : State :=
  let s := State.reset.setPort 0 { State.reset.port 0 with select := 0 }
  { s with holders := tput s.holders 0 (.host 0), freeList := (List.finRange 96).drop 1 }

/-- A port's phase. -/
def inPhase (p : PortPhase) (pin : Bool) : State := State.reset.setPort 0 { State.reset.port 0 with phase := p, pin := pin }

/-- The next state satisfies a test. -/
def after (c : Instr) (s : State) (p : State → Bool) : Bool :=
  match exec c s with
  | .next t => p t
  | _ => false

/-- The receiver in ASSEMBLING with some characters of a frame of length 0 taken, and a good character at the middle of its last stop bit under way or not. -/
def assembling (count : Nat) (check : Word16) (char : Bool) : State :=
  State.reset.setLif { State.reset.lif with
    rx := .assembling, gap := some ⟨2560, 0, false⟩
    char := if char then some ⟨128, 1, 1216, true, true, 0, false⟩ else none
    frame := { State.reset.lif.frame with address := 0x81, function := 0x10, length := 0, count := count, check := check } }

/-- A claim of host 3 alone, the first after power-on in turn being port 0. -/
def claims3 (c : PortClaim) : State := buf0.setPort 3 { buf0.port 3 with claim := some c }
def claims0 (c : PortClaim) : State := buf0.setPort 0 { buf0.port 0 with claim := some c }

/-- The step's next state satisfies a test. -/
def afterStep (s : State) (p : State → Bool) : Bool :=
  match step s with
  | .next t => p t
  | _ => false

/-- Some claim in service for some clock periods yet, in a state. -/
def serving (u : MemoryUser) (left : Nat) (s : State) : State := { s with service := some ⟨u, left⟩ }

/-- Host 0's port with a claim in service for some clock periods yet. -/
def inService (left : Nat) : State := { State.reset with service := some (serviceOf 0 left (State.reset.port 0)) }

/-- The engine with a fetch from buffer 0 waiting. -/
def fetching : State := { buf0 with engineClaim := some (.fetch 0 63) }

/-- Host 0's port in a phase with an access waiting. -/
def withWaiting (p : PortPhase) (edges : Nat) : State :=
  State.reset.setPort 0 { State.reset.port 0 with phase := p, edges := edges, waiting := [.readLine 0] }

/-- The transmitter in its opening break, whether it has come back and whether its marking part was sampled spacing. -/
def opening (back failed : Bool) : State :=
  State.reset.setLif { State.reset.lif with
    tx := .opening, rx := .echo
    sending := { State.reset.lif.sending with
      order := ⟨31, true, 0x10, 0⟩, echoBreak := back, markChecked := !failed, markFailed := failed, bit := 128, charBits := 10, elapsed := 2250 } }

/-! ## WellFormed refuses what is ill-formed -/

theorem test_wf_known_code : (Instr.badCommand 0 0x20).wellFormed = false := by decide
theorem test_wf_unknown_code : (Instr.badCommand 0 0x23).wellFormed = true := by decide
theorem test_wf_window_location : (Instr.portRegisterWrite 0 0x3F 0).wellFormed = false := by decide
theorem test_wf_command_location : (Instr.portRegisterWrite 0 0x41 0).wellFormed = false := by decide
theorem test_wf_mask_location : (Instr.portRegisterWrite 0 0x44 0).wellFormed = false := by decide
theorem test_wf_param_location : (Instr.portRegisterWrite 0 0x5F 0).wellFormed = true := by decide

/-! ## Small steps, with the manual's results -/

/-- R8: the check over "123456789" is 0x29B1, and over no bytes 0xFFFF. -/
theorem test_check_of_r8 :
    checkBytes checkInit [0x31, 0x32, 0x33, 0x34, 0x35, 0x36, 0x37, 0x38, 0x39] = 0x29B1 ∧ checkBytes checkInit [] = 0xFFFF := by
  decide +kernel

/-- R136: two replies that differ in the sequence bit have checks that differ by the correction. -/
theorem test_sequence_correction :
    checkBytes checkInit [0xA3, 0x10, 0x01, 0x55] ^^^ checkBytes checkInit [0x83, 0x10, 0x01, 0x55] = sequenceCorrection 1 := by
  decide +kernel

/-- R1: bit and character times of rate codes 4 and 7. -/
theorem test_bit_times : rateClocks 4 = 128 ∧ rateClocks 7 = 16 ∧ rateClocks 0 = 1536 ∧ characterBits 1 = 10 ∧ characterBits 2 = 11 := by
  decide

/-- R165: the five counts sum to 73728 clock periods. -/
theorem test_tick_cycle : ((List.finRange 5).map tickClocks).sum = 73728 := by decide

/-- R47: the first allocation after power-on gives buffer 0, owned count 1, free count 95. -/
theorem test_alloc : after (.bufAlloc 0) State.reset
    (fun t => after .arbiterServe t fun u => decide (arg 0 0 u = 0 ∧ arg 0 1 u = 1 ∧ arg 0 2 u = 95 ∧ (u.port 0).result = .ok)) = true := by
  decide +kernel

/-- R46: a quota of 0 refuses every allocation. -/
theorem test_alloc_quota : after (.bufAlloc 0) { State.reset with active := { State.reset.active with bufferQuota := 0 } }
    (fun t => decide ((t.port 0).result = .quota)) = true := by decide +kernel

/-- R64: defaults are copied into the record (default retries 2, default timeout 20), and a run is asked for. -/
theorem test_submit : after (.submit 0) (withArgs 0 [1, 0x10, 1, 0xFF, 0, 0xFF, 0x12, 0x34, 0xFF, 0] idle)
    (fun t => decide ((t.slot 0).state = .queued ∧ (t.slot 0).tag = some 0x1234 ∧ (t.slot 0).retryLimit = 2
      ∧ (t.slot 0).replyTimeout = 20 ∧ t.submission = 1 ∧ t.hand.runAsked = true)) = true := by decide +kernel

/-- R63, check 3: a broadcast that names a reply buffer is refused. -/
theorem test_submit_broadcast_reply : after (.submit 0) (withArgs 0 [0, 0x10, 1, 0xFF, 0, 3, 0, 0, 0, 0] idle)
    (fun t => decide ((t.port 0).result = .badParam ∧ t.submission = 0)) = true := by decide +kernel

/-- R88: a grant begins the first attempt: attempts made 1, engine SENDING, driver enabled. -/
theorem test_grant : after .schedulerRun ((idle.setSlot 3 { queuedX with owner := 2 }))
    (fun t => decide ((t.slot 3).state = .active ∧ (t.slot 3).attempts = 1 ∧ t.engine.current = some 3
      ∧ t.pointers.bulk = 3 ∧ driverEnable t = true ∧ txData t = false)) = true := by decide +kernel

/-- R90: at pass count 8 a BULK exchange is promoted under the default limit. -/
theorem test_promotion : after .schedulerRun ((idle.setSlot 0 { queuedX with cls := .urgent }).setSlot 1 { queuedX with passCount := 7 })
    (fun t => decide ((t.slot 1).cls = .normal ∧ (t.slot 1).promoted = true ∧ (t.slot 1).passCount = 8)) = true := by decide +kernel

/-- R24: the third failure reaches the default threshold 3; a count of 15 stays at 15. -/
theorem test_failure : (afterReport 3 ⟨0, true, .noReply, false⟩ { freshStation with failures := 2 }).state = .failed
    ∧ (afterReport 3 ⟨0, false, .badReply, false⟩ { freshStation with failures := 15 }).failures = 15
    ∧ (afterReport 3 ⟨0, true, .noReply, false⟩ freshStation).nextSeq = true := by decide

/-- R116, case 6, and R117: a second host waits at position 1. -/
theorem test_hold_waits : after (.hold 1) (withHold 0 ⟨0, 100, [], false⟩ (withArgs 1 [1, 0, 50] State.reset))
    (fun t => decide ((t.port 1).result = .holdWaiting ∧ arg 1 3 t = 0 ∧ arg 1 5 t = 100 ∧ arg 1 6 t = 1)) = true := by decide +kernel

/-- R118: a release gives the station to the waiter with the lease kept in its entry. -/
theorem test_hand_over : after (.release 0) (withHold 0 ⟨0, 100, [⟨1, 50⟩], false⟩ (withArgs 0 [1] State.reset))
    (fun t => decide ((t.station 0).hold = some ⟨1, 50, [], false⟩ ∧ (t.notice 1).pending = 0x04 ∧ t.hand.runAsked = true)) = true := by
  decide +kernel

/-- R154: the lowest active code is returned and its latch alone cleared. -/
theorem test_notice_code : after (.noticeCodeRead 0) (State.reset.setNotice 0 ⟨0x8A, 0x02⟩)
    (fun t => decide ((t.port 0).data = 3 ∧ (t.notice 0).pending = 0x82)) = true := by decide +kernel

/-- R50: a window access to a select above 95 is refused, returns 0xFF and sets the flag. -/
theorem test_window_refused : after (.windowRead 0 5) State.reset
    (fun t => after .arbiterServe t fun u => decide ((u.port 0).data = 0xFF ∧ (u.port 0).windowRefused = true)) = true := by
  decide +kernel

/-- R50: a byte written through the window stands in the buffer, and no other byte does. -/
theorem test_window_write : after (.windowWrite 0 63 0xA5) buf0
    (fun t => after .arbiterServe t fun u => decide (u.bufferByte 0 63 = 0xA5 ∧ u.bufferByte 0 62 = 0x00 ∧ u.bufferByte 1 0 = 0x00)) = true := by
  decide +kernel

/-- R51, R169: an access begun while a claim is in service has no READY; it is served once the service's last clock period is over. -/
theorem test_waiting_access : after (.readLine 0) (inService 1) (fun t => afterStep t fun u => afterStep u fun v =>
    decide ((t.port 0).waiting = [.readLine 0] ∧ u.service = none ∧ portReady 0 u = false
      ∧ (v.port 0).waiting = [] ∧ portReady 0 v = true)) = true := by decide +kernel

/-- R54, R175: a reset pin asserted during a service leaves what the port showed before it. -/
theorem test_service_abandoned : after (.windowRead 0 5) State.reset (fun t => after .arbiterServe t fun u =>
    after (.hostPortResetAssert 0) u fun v => decide ((u.port 0).data = 0xFF ∧ (v.port 0).data = 0x00)) = true := by decide +kernel

/-- R51, R54: a clearing whose port is reset meanwhile keeps the memory for its 64 clock periods, and host 1's claim waits for it. -/
theorem test_service_holds_memory : after (.bufAlloc 0) State.reset (fun t => after .arbiterServe t fun u =>
    after (.hostPortResetAssert 0) u fun v => after (.windowRead 1 5) v fun w => after .arbiterServe w fun x =>
      decide (x.service = some ⟨.abandoned, 64⟩ ∧ (x.port 1).claim = some (.read 5) ∧ x.lastServed = 0 ∧ dueEvent x = none)) = true := by
  decide +kernel

/-- R3, R12: the opening break's echo is a break and no character, so the address character's start edge begins a character of its own. -/
theorem test_break_is_no_character : after .markToSpaceEdge (opening false false) (fun t => after .halfBitSample t fun u =>
    after .breakDetected u fun v => after .spaceToMarkEdge v fun w => after .openingBreakEnd w fun x => after .markToSpaceEdge x fun y =>
      decide (v.lif.char = none ∧ y.lif.tx = .characters ∧ y.lif.char = some ⟨128, 1, 0, false, true, 0, false⟩)) = true := by
  decide +kernel

/-- R3: a character whose stop bits have all been sampled marking has no framing error. -/
theorem test_no_framing_error : after .framingError (assembling 0 0xFFFF true)
    (fun t => decide (t.lif.rx = .assembling ∧ t.lif.char ≠ none ∧ t.lif.reports = [])) = true := by decide +kernel

/-- R170, R172: the code 0x61 at the command location is READ_SETTINGS, whose first byte is the rate code; 0x23 is no command. -/
theorem test_command_code : after (.portRegisterWrite 0 0x41 0x61) State.reset (fun t =>
    after (.portRegisterWrite 0 0x41 0x23) t fun u => decide (arg 0 0 t = 4 ∧ (t.port 0).result = .ok
      ∧ arg 0 0 u = 4 ∧ (u.port 0).result = .badCommand)) = true := by decide +kernel

/-- R12: a marking part that was sampled spacing is a collision, though the input is marking by then. -/
theorem test_mark_failed : after .echoCollision (opening true true)
    (fun t => decide (t.lif.tx = .cutting ∧ t.lif.reports = [.collision])) = true := by decide +kernel

/-- R3: a character whose last stop bit has been sampled marking is taken before the next start edge. -/
theorem test_catch_up : after .markToSpaceEdge (assembling 0 0xFFFF true)
    (fun t => decide (t.lif.frame.count = 1 ∧ t.lif.char = some ⟨128, 1, 0, false, true, 0, false⟩)) = true := by decide +kernel

/-- R3, R17: a character settled without a report 11 bit times after its start edge leaves a gap that began at its nominal end, one bit time before. -/
theorem test_settled_gap : ((({ (assembling 1 0 false).lif with
      input := false, char := some ⟨128, 1, 1407, true, true, 0, true⟩ } : Lif).clocked 2560).gap = some ⟨2560, 128, false⟩) := by decide +kernel

/-- R119, R165: the tick at station 1 expires its lease before the same tick comes to the lease of station 2. -/
theorem test_tick_order : after (.leaseExpiry 0) (withHold 1 ⟨1, 5, [], false⟩ (withHold 0 ⟨0, 1, [], false⟩ State.reset))
    (fun t => after .tick t fun u => decide ((t.station 0).hold = none ∧ (t.station 1).hold = some ⟨1, 5, [], false⟩
      ∧ (u.station 1).hold = some ⟨1, 4, [], false⟩)) = true := by decide +kernel

/-- R147: a pop returns the oldest record and moves the backlog's exchange into the freed place. -/
theorem test_pop : after (.popCompletion 0)
    ((State.reset.setQueue 0 [⟨0x0102, 7, 1, 0x10, .answered, 1, 0, some 0x10, false, false⟩]).setSlot 2
      { xIn .done with finish := some 0, outcome := some .noReply })
    (fun t => decide (arg 0 0 t = 1 ∧ arg 0 1 t = 2 ∧ arg 0 2 t = 7 ∧ (t.queue 0).length = 1 ∧ (t.slot 2).state = .free)) = true := by
  decide +kernel

/-- R160: outside IDLE a record waits as the pending record. -/
theorem test_settings : after (.setSettings 0) (withArgs 0 [4, 1, 2, 20, 2, 3, 8, 8, 8, 96] State.reset)
    (fun t => decide ((t.port 0).result = .pending ∧ t.staged.isSome ∧ t.active.bufferQuota = 24)) = true := by decide +kernel

/-- R110: LINE_RESET in STUCK is answered NOT_NOW. -/
theorem test_line_reset : after (.lineReset 0) (inState .stuck) (fun t => decide ((t.port 0).result = .notNow)) = true := by
  decide +kernel

/-- R176: the seven parts of a release, in order, leave the port serving with select 0xFF. -/
theorem test_release_parts : after (.hostPortResetRelease 0) (inPhase .held true) (fun t =>
    after (.xtabResetPart 0) t fun t => after (.bpoolResetPart 0) t fun t => after (.plstResetPart 0) t fun t =>
    after (.stabResetPart 0) t fun t => after (.cqResetPart 0) t fun t => after (.nctlResetPart 0) t fun t =>
    after (.portResetPart 0) t fun t => decide (portServes 0 t = true ∧ (t.port 0).select = 0xFF)) = true := by
  decide +kernel

/-- R119: a lease of 2 is lowered at the first tick and expires with the second. -/
theorem test_lease : after .tick (withHold 0 ⟨0, 2, [], false⟩ State.reset) (fun t => after .tick t fun t =>
    after (.leaseExpiry 0) t fun t => decide ((t.station 0).hold = none ∧ (t.notice 0).pending = 0x02)) = true := by
  decide +kernel

/-- R5, R15: a frame of length 0 with a right check is reported complete after its fifth character. -/
theorem test_frame_complete : after
    (.characterTaken (loByte (checkBytes checkInit [0x81, 0x10, 0x00])))
    (assembling 4 (checkByte (checkBytes checkInit [0x81, 0x10, 0x00]) (hiByte (checkBytes checkInit [0x81, 0x10, 0x00]))) true)
    (fun t => decide (t.lif.rx = .hunt ∧ t.lif.reports.length = 1)) = true := by decide +kernel

/-- R16: a length byte of 65 fails the frame with reason LENGTH. -/
theorem test_frame_length : after (.characterTaken 65) (assembling 2 0 true)
    (fun t => decide (t.lif.rx = .hunt ∧ t.lif.reports = [.badFrame .length])) = true := by decide +kernel

/-- R177, R92: from reset the first grant falls after the guard: the guard runs out and the engine enters IDLE. -/
theorem test_first_idle : after .guardRunOut State.reset
    (fun t => decide (t.engine.state = .idle ∧ t.hand.runAsked = true)) = true := by decide +kernel

/-! ## States that meet the hypotheses of the statements, clause by clause -/

/-- Meets the hypotheses of IdleStepIsTheDueEventOrAClockPeriod: an event due, an access that can be served, a clock period. -/
theorem wit_IdleStep : (askRun State.reset).pending = [] ∧ dueEvent (askRun State.reset) = some .schedulerRun
    ∧ ((withWaiting .serving 0).pending = [] ∧ dueEvent (withWaiting .serving 0) = none
      ∧ (withWaiting .serving 0).porst = false ∧ ((withWaiting .serving 0).port 0).phase = .serving
      ∧ ((withWaiting .serving 0).port 0).claim = none ∧ portInService 0 (withWaiting .serving 0) = false
      ∧ ((withWaiting .serving 0).port 0).waiting = .readLine 0 :: [] ∧ (∀ k : HostId, ¬ k < 0))
    ∧ (State.reset.pending = [] ∧ dueEvent State.reset = none ∧ ∀ h, (State.reset.port h).waiting = []) := by decide +kernel

/-- A line whose spacing run has lasted a number of clock periods at 128 a bit. -/
def spacing (rx : RxSide) (elapsed : Nat) : State :=
  State.reset.setLif { State.reset.lif with input := false, rx := rx, run := some ⟨128, 10, elapsed, false⟩ }

/-- Meets the hypotheses of IdleStepIsTheDueEventOrAClockPeriod, the events whose times it names, at the edge of each. -/
theorem wit_Due_events : dueEvent (spacing .hunt 1407) = none ∧ dueEvent (spacing .hunt 1408) = some .breakDetected
    ∧ dueEvent { State.reset with prescaler := ⟨14746, 0⟩ } = some .tick
    ∧ dueEvent (State.reset.setEngine { State.reset.engine with guard := ⟨0, false, 0, 1280⟩ }) = some .guardRunOut
    ∧ dueEvent (claims0 (.read 63)) = some .arbiterServe
    ∧ dueEvent (serving .abandoned 1 (claims0 (.read 63))) = none ∧ dueEvent (serving .abandoned 1 fetching) = none
    ∧ dueEvent (serving .engine 1 fetching) = some .arbiterServe := by
  decide +kernel

/-- Meets the hypotheses of CommandsGoOnAndUnservedChangeNothing: a reset held, a service under way, a release under way, an event. -/
theorem wit_Unserved : portAccess (.bufAlloc 0) = some 0
    ∧ (portServes 0 { State.reset with porst := true } = false ∧ { State.reset with porst := true }.porst = true)
    ∧ (portServes 0 (inPhase .held true) = false ∧ ((inPhase .held true).port 0).phase = .held)
    ∧ (portServes 0 (inService 1) = false ∧ (inService 1).porst = false ∧ ((inService 1).port 0).pin = false
      ∧ ((inService 1).port 0).phase ≠ .held)
    ∧ (portServes 0 (inPhase (.releasing .cq) false) = false ∧ ((inPhase (.releasing .cq) false).port 0).pin = false
      ∧ ((inPhase (.releasing .cq) false).port 0).phase ≠ .held)
    ∧ portAccess .tick = none := by
  decide +kernel

/-- Meets the hypotheses of CommandsGoOnAndUnservedChangeNothing, an event that is no pin's. -/
theorem wit_Unserved_no_pin : ¬ pinEvent .tick := by unfold pinEvent; decide

/-- A state that a command changes in every block that the invariants speak of. -/
def busy : State :=
  { withArgs 0 [1, 0x10, 1, 0, 0, 0xFF, 0, 0, 0xFF, 0] buf0 with pending := [.submit 0, .bufAlloc 1, .schedulerRun] }

/-- Meets the hypotheses of StorageStaysInRange, the memory and the queues. -/
theorem wit_Storage : Memory.wf busy.mem ∧ Memory.wf [(3, 7), (64, 1)] ∧ (∀ h, (busy.queue h).length ≤ 16)
    ∧ settingsInRange busy.active = true ∧ busy.staged = none := by decide +kernel

/-- Meets the hypotheses of StorageStaysInRange, the step. -/
theorem wit_Storage_step : goesOn (step busy) := ⟨_, rfl⟩

/-- Meets the hypotheses of StorageStaysInRange, the queues. -/
theorem wit_Queues : QueuesOk busy := by unfold QueuesOk; decide +kernel

/-- Meets the hypotheses of StorageStaysInRange, a pending record. -/
theorem wit_Settings : SettingsOk { busy with staged := some busy.active } := by
  refine ⟨by decide +kernel, ?_⟩
  intro x hx
  obtain rfl : busy.active = x := by simpa using hx
  decide +kernel

/-- Meets the hypotheses of PoolStaysConsistent. -/
theorem wit_Pool : PoolOk buf0 := by unfold PoolOk; decide +kernel

/-- Meets the hypotheses of HoldsStayInOrder. -/
theorem wit_Holds : HoldsOk (withHold 0 ⟨0, 1, [⟨1, 65535⟩], false⟩ State.reset) := by
  refine ⟨?_, by decide +kernel⟩
  intro n k hk
  have hn : ∀ n, n ≠ 0 → ((withHold 0 ⟨0, 1, [⟨1, 65535⟩], false⟩ State.reset).station n).hold = none := by decide +kernel
  by_cases h0 : n = 0
  · subst h0
    have h1 : ((withHold 0 ⟨0, 1, [⟨1, 65535⟩], false⟩ State.reset).station 0).hold = some ⟨0, 1, [⟨1, 65535⟩], false⟩ := by
      decide +kernel
    obtain rfl := Option.some.inj (h1.symm.trans hk)
    unfold HoldOk; decide
  · rw [hn n h0] at hk; exact absurd hk (by simp)

/-- An exchange that waits for its reply. -/
def waiting : State := onLine0 .awaiting { xIn .active with attempts := 1, transmitted := true, retryLimit := 7 }

/-- Meets the hypotheses of EngineRecordStaysInOrder. -/
theorem wit_Engine : EngineOk waiting := by
  have h : waiting.engine.current.isSome ∧ waiting.engine.retryDue = false ∧ waiting.engine.copyOutstanding = false := by
    decide +kernel
  refine ⟨h, by decide +kernel, ?_⟩
  constructor
  · intro h; exact absurd h (by decide +kernel)
  · rintro ⟨b, n, h⟩; exact absurd h (by simp [waiting, onLine0, State.reset, State.setSlot])

/-- Meets the hypotheses of OneExchangeWithBoundedAttempts. -/
theorem wit_OneOnLine : OneOnLine waiting ∧ AttemptsOk waiting := by
  refine ⟨⟨?_, by decide +kernel⟩, ?_⟩
  · intro i
    have h1 : waiting.hand.exchangeEnd = none := by decide +kernel
    have h2 : ∀ i, ((waiting.slot i).state = .active ∨ (waiting.slot i).state = .orphan) ↔ waiting.engine.current = some i := by
      decide +kernel
    simp only [onLine, h1]
    rw [h2 i]
    simp
  · unfold AttemptsOk; decide +kernel

/-- Meets the hypotheses of OneExchangeWithBoundedAttempts, the settings. -/
theorem wit_Attempts_settings : SettingsOk waiting := ⟨by decide +kernel, by intro x hx; exact absurd hx (by simp [waiting, onLine0, State.reset, State.setSlot])⟩

/-- Meets the hypotheses of BufferBytesChangeOnlyAtTheArbiter. -/
theorem wit_BufferBytes : Instr.tick ≠ .arbiterServe ∧ Instr.tick ≠ .powerOnReset ∧ goesOn (exec .tick State.reset) :=
  ⟨by decide, by decide, _, rfl⟩

/-- Meets the hypotheses of SharedRecordsChangeOnlyByTheirOwnEvents. -/
theorem wit_SharedRecords : Instr.tick ≠ .powerOnReset ∧ Instr.tick ≠ .guardRunOut ∧ Instr.tick ≠ .schedulerRun
    ∧ Instr.tick ≠ .exchangeEndReport ∧ (∀ h, rowOf .tick ≠ .setSettings h) ∧ (∀ h, rowOf .tick ≠ .submit h)
    ∧ (∀ h, rowOf .tick ≠ .pollStart h) ∧ (∀ h, rowOf .tick ≠ .pollRetime h) ∧ (∀ e, Instr.tick ≠ .pollDue e)
    ∧ rowOf (.badCommand 2 0x60) = .setSettings 2 ∧ rowOf (.portRegisterWrite 2 0x41 0x20) = .submit 2
    ∧ rowOf (.portRegisterWrite 2 0x44 7) = .noticeMaskWrite 2 7 ∧ rowOf (.portRegisterWrite 2 0x41 0x23) = .badCommand 2 0x23 := by
  decide

/-- Meets the hypotheses of PortsAreKeptApart. -/
theorem wit_PortsApart : portAccess (.windowRead 3 63) = some 3 ∧ goesOn (exec (.windowRead 3 63) State.reset) :=
  ⟨by decide, _, rfl⟩

/-- Meets the hypotheses of the statements about port accesses: after reset every port serves. -/
theorem wit_Serves : ∀ h, portServes h State.reset = true := by decide +kernel

/-- Meets the hypotheses of PortLocationsReadAndWrite, the code read. -/
theorem wit_NoticeCode : (activeBits (⟨0x88, 0⟩ : NoticeCtl)).getLsbD 3 = true ∧ (∀ m, m < 3 → (activeBits (⟨0x88, 0⟩ : NoticeCtl)).getLsbD m = false)
    ∧ (activeBits (⟨0x80, 0⟩ : NoticeCtl)).getLsbD 7 = true ∧ activeBits (⟨0x80, 0x80⟩ : NoticeCtl) = 0 := by decide +kernel

/-- Meets the hypotheses of PortLocationsReadAndWrite, the writes: the ends of the parameter area and of the ignored locations, the first and the last command code, and codes beside them. -/
theorem wit_PlainWrites : (0x60 : BitVec 7).toNat = 0x60 ∧ (0x60 : Nat) ≤ (0x7F : BitVec 7).toNat
    ∧ (0x10, Instr.bufAlloc 3) ∈ commandCodes 3 ∧ (0x72, Instr.clearStats 3) ∈ commandCodes 3
    ∧ (∀ x ∈ commandCodes 3, x.1 ≠ 0x23) ∧ (∀ x ∈ commandCodes 3, x.1 ≠ 0x73) := by decide

/-- Meets the hypotheses of ReadsAndClearStats. -/
theorem wit_ReadExchange : (arg 0 0 (withArgs 0 [31] State.reset)).toNat = 31 ∧ 32 ≤ (arg 0 0 (withArgs 0 [32] State.reset)).toNat
    ∧ (((withArgs 0 [0] State.reset).setSlot 0 queuedX).slot 0).owner = 0
    ∧ (((withArgs 0 [0] State.reset).setSlot 0 queuedX).slot 0).state ≠ .free
    ∧ ((State.reset).slot 31).state = .free := by decide +kernel

/-- Station 31's unread-change flag of host 0 set. -/
def unread31 : State :=
  State.reset.setStation 30 { State.reset.station 30 with unread := tput (State.reset.station 30).unread 0 true }

/-- Meets the hypotheses of RecordReadsShowThenClear, stations. -/
theorem wit_ReadStation : (arg 0 0 (withArgs 0 [1] State.reset)).toNat = (0 : StationNo).val + 1
    ∧ (arg 0 0 (withArgs 0 [31] State.reset)).toNat = (30 : StationNo).val + 1
    ∧ arg 0 0 (withArgs 0 [0xFF] unread31) = 0xFF ∧ tget (unread31.station 30).unread 0 = true
    ∧ (∀ m, m < 30 → tget (unread31.station m).unread 0 = false) ∧ (∀ m, tget (State.reset.station m).unread 0 = false)
    ∧ arg 0 0 (withArgs 0 [0] State.reset) = 0 ∧ 32 ≤ (arg 0 0 (withArgs 0 [254] State.reset)).toNat
    ∧ arg 0 0 (withArgs 0 [254] State.reset) ≠ 0xFF := by decide +kernel

/-- Entry 15 ARMED for host 0 with a change unread. -/
def changed15 : State := State.reset.setEntry 15 { armedE with unreadChange := true }

/-- Meets the hypotheses of RecordReadsShowThenClear, entries. -/
theorem wit_ReadPoll : (changed15.entry 15).state ≠ .unused ∧ (changed15.entry 15).owner = 0
    ∧ (arg 0 0 (withArgs 0 [15] changed15)).toNat = (15 : EntryNo).val ∧ (changed15.entry 15).unreadChange = true
    ∧ (∀ m, m < 15 → (changed15.entry m).state = .unused) ∧ 16 ≤ (arg 0 0 (withArgs 0 [16] State.reset)).toNat
    ∧ (State.reset.entry 0).state = .unused := by decide +kernel

/-- Meets the hypotheses of SubscribeAndUnsubscribe. -/
theorem wit_Subscribe : tget (State.reset.station 0).subscribers 0 = false
    ∧ tget (freshStation.subscribers.set 0 true) 0 = true ∧ 32 ≤ (arg 0 0 (withArgs 0 [32] State.reset)).toNat := by decide +kernel

/-- Meets the hypotheses of ReviveLeavesFailed. -/
theorem wit_Revive : ((withStation 0 .failed State.reset).station 0).state = .failed ∧ (withStation 0 .failed State.reset).hand.flush ≠ some 0
    ∧ ({ withStation 0 .failed State.reset with hand := { noHandOvers with flush := some 0 } }).hand.flush = some 0
    ∧ (State.reset.station 0).state ≠ .failed := by decide +kernel

/-- Meets the hypotheses of ReportChangesTheRecord. -/
theorem wit_Report : State.reset.porst = false
    ∧ ({ State.reset with hand := { noHandOvers with endReport := some ⟨30, true, .answered, true⟩ } }).hand.endReport = some ⟨30, true, .answered, true⟩
    ∧ ({ State.reset with hand := { noHandOvers with endReport := some ⟨30, true, .answered, true⟩ } }).hand.exchangeEnd = none := by
  decide +kernel

/-- Station 1 held by host 0 with host 1 waiting; and with four stations in host 2's hands. -/
def held : State := withHold 0 ⟨0, 1, [⟨1, 65535⟩], true⟩ State.reset
def four : State := withHold 1 ⟨2, 5, [], false⟩ (withHold 2 ⟨2, 5, [], false⟩ (withHold 3 ⟨2, 5, [], false⟩ (withHold 4 ⟨2, 5, [], false⟩ held)))

/-- Meets the hypotheses of HoldAnswersByCase. -/
theorem wit_Hold : (held.station 0).hold = some ⟨0, 1, [] ++ ⟨1, 65535⟩ :: [], true⟩ ∧ (State.reset.station 0).hold = none
    ∧ arg16 0 1 2 (withArgs 0 [1, 0, 0] State.reset) = 0 ∧ arg16 0 1 2 (withArgs 0 [1, 0xFF, 0xFF] State.reset) = 65535
    ∧ (arg 0 0 (withArgs 0 [31, 0, 1] State.reset)).toNat = (30 : StationNo).val + 1
    ∧ heldCount 2 four = 4 ∧ heldCount 3 four < 4 ∧ heldCount 0 State.reset < 4
    ∧ (four.station 0).hold = some ⟨0, 1, [⟨1, 65535⟩], true⟩ := by decide +kernel

/-- Meets the hypotheses of ReleaseAndExpiryHandOver. -/
theorem wit_Release : (held.station 0).hold = some ⟨0, 1, [⟨1, 65535⟩], true⟩ ∧ held.porst = false
    ∧ (∀ h, portServes h held = true) ∧ (arg 1 0 (withArgs 1 [1] held)).toNat = (0 : StationNo).val + 1 := by decide +kernel

/-- Station 1 held by host 0 with host 2, at its limit, waiting before host 1. -/
def skipping : State := withHold 0 ⟨0, 1, [⟨2, 7⟩, ⟨1, 9⟩], false⟩ four

/-- Meets the hypotheses of ReleaseAndExpiryHandOver, a skipped waiter. -/
theorem wit_HandedOver : Config.holdLimit ≤ heldCount 2 (skipping.setStation 0 { skipping.station 0 with hold := none })
    ∧ heldCount 1 (skipping.setStation 0 { skipping.station 0 with hold := none }) < Config.holdLimit := by decide +kernel

/-- Meets the hypotheses of AllocationTakesTheHeadCleared. -/
theorem wit_Alloc : ownedCount 0 State.reset < State.reset.active.bufferQuota ∧ State.reset.freeList = 0 :: (List.finRange 96).drop 1
    ∧ State.reset.holder 0 = .free ∧ State.reset.active.bufferQuota ≤ 24
    ∧ ({ State.reset with freeList := [] } : State).freeList = []
    ∧ ({ State.reset with active := { State.reset.active with bufferQuota := 0 } } : State).active.bufferQuota ≤ ownedCount 0 State.reset := by
  decide +kernel

/-- Meets the hypotheses of AllocationTakesTheHeadCleared and WindowIsJudgedAtService, the order. -/
theorem wit_ServedNext : servedNext 3 (claims3 (.clear 95 1 95)) ∧ servedNext 0 (claims0 (.read 63)) := by
  refine ⟨⟨by decide +kernel, by decide +kernel, by decide +kernel, 3, by decide +kernel, by decide +kernel⟩,
    ⟨by decide +kernel, by decide +kernel, by decide +kernel, 0, by decide +kernel, by decide +kernel⟩⟩

/-- Meets the hypotheses of WindowIsJudgedAtService. -/
theorem wit_Window : ((claims0 (.read 63)).port 0).select.toNat = (0 : BufNo).val ∧ (claims0 (.read 63)).holder 0 = .host 0
    ∧ (claims0 (.read 63)).attachment 0 = none ∧ ((claims0 (.read 63)).port 0).claim = some (.read 63)
    ∧ ((claims0 (.write 0 9)).port 0).claim = some (.write 0 9) ∧ Memory.wf (claims0 (.write 0 9)).mem
    ∧ ((claims3 (.clear 95 1 95)).port 3).claim = some (.clear 95 1 95)
    ∧ (∀ b : BufNo, ((claims3 (.read 0)).port 3).select.toNat = b.val → (claims3 (.read 0)).holder b ≠ .host 3) := by decide +kernel

/-- Meets the hypotheses of FreeingAppendsAtTheTail. -/
theorem wit_Free : buf0.holder 0 = .host 0 ∧ buf0.attachment 0 = none ∧ buf0.holder 95 ≠ .host 0
    ∧ ({ buf0 with attached := tput buf0.attached 0 (some ⟨.slot 0, true, false⟩) } : State).attachment 0 ≠ none
    ∧ 96 ≤ (arg 0 0 (withArgs 0 [96] buf0)).toNat ∧ (arg 0 0 (withArgs 0 [95] buf0)).toNat = (95 : BufNo).val := by decide +kernel

/-- Meets the hypotheses of EngineClaimIsServedFirst. -/
theorem wit_EngineClaim :
    ({ buf0 with engineClaim := some (.copy 0 64), engine := { buf0.engine with reply := some ⟨64, 0x90, false, 0, false⟩ } } : State).engineClaim = some (.copy 0 64)
    ∧ Memory.wf buf0.mem ∧ buf0.engineClaim = none ∧ (∀ h, (buf0.port h).claim = none) := by decide +kernel

/-- Meets the hypotheses of EngineClaimIsServedFirst, the memory free for the engine, held against it, and held against a host's claim. -/
theorem wit_EngineClaim_memory : (fetching.engineClaim = some (.fetch 0 63) ∧ ¬ EngineKeptOut fetching ∧ ¬ EngineKeptOut (serving .engine 1 fetching))
    ∧ ((serving .abandoned 64 fetching).engineClaim ≠ none ∧ EngineKeptOut (serving .abandoned 64 fetching))
    ∧ ((serving .engine 64 (claims0 (.read 63))).engineClaim = none ∧ (serving .engine 64 (claims0 (.read 63))).service ≠ none) := by
  simp only [← engineKeptOut_iff]
  decide +kernel

/-- A SUBMIT with every argument at a limit, all its checks passing. -/
def submit31 : State := withArgs 0 [31, 0xFF, 2, 0, 64, 0, 0xFF, 0xFF, 7, 255] buf0

set_option synthInstance.maxSize 2000 in
theorem wit_Submit_accepted : firstFailure (submitChecks 0 submit31) none ∧ lowestFree 0 submit31
    ∧ namesBuffer (arg 0 3 submit31) (some 0) := by
  refine ⟨?_, ⟨by decide +kernel, by decide +kernel⟩, by unfold namesBuffer; decide +kernel⟩
  unfold submitChecks
  simp only [firstFailure, fieldOwned, fieldFree]
  decide +kernel

set_option synthInstance.maxSize 2000 in
/-- The first failure of each of R63's checks, at the edge of its range. -/
theorem wit_Submit_refused :
    firstFailure (submitChecks 0 (withArgs 0 [32, 0, 0, 0xFF, 0, 0xFF, 0, 0, 0, 0] buf0)) (some .badParam)
    ∧ firstFailure (submitChecks 0 (withArgs 0 [1, 0, 0, 0xFF, 1, 0xFF, 0, 0, 0, 0] buf0)) (some .badParam)
    ∧ firstFailure (submitChecks 0 (withArgs 0 [0, 0, 0, 0xFF, 0, 0, 0, 0, 0, 0] buf0)) (some .badParam)
    ∧ firstFailure (submitChecks 0 (withArgs 0 [1, 0, 0, 96, 0, 0xFF, 0, 0, 0, 0] buf0)) (some .badBuffer)
    ∧ firstFailure (submitChecks 0 (withArgs 0 [1, 0, 0, 0xFF, 0, 0xFF, 0, 0, 0, 0] (withStation 0 .failed buf0))) (some .stationDown) := by
  unfold submitChecks
  simp only [firstFailure, fieldOwned, fieldFree]
  refine ⟨?_, ?_, ?_, ?_, ?_⟩ <;> decide +kernel

/-- Meets the hypotheses of CancelAnswersByTheRecord. -/
theorem wit_Cancel : ((State.reset.setSlot 0 queuedX).slot 0).state = .queued ∧ ((State.reset.setSlot 0 queuedX).slot 0).origin = .host
    ∧ ((State.reset.setSlot 0 (xIn .active)).slot 0).state = .active ∧ ((State.reset.setSlot 0 (xIn .done)).slot 0).state = .done
    ∧ State.reset.hand.exchangeEnd = none
    ∧ ({ State.reset with hand := { noHandOvers with exchangeEnd := some ⟨0, .answered, .replyOk, 0, none, false, none⟩ } } : State).hand.exchangeEnd
      = some ⟨0, .answered, .replyOk, 0, none, false, none⟩
    ∧ 32 ≤ (arg 0 0 (withArgs 0 [32] State.reset)).toNat ∧ (arg 0 0 (withArgs 0 [31] State.reset)).toNat = (31 : SlotNo).val := by
  decide +kernel

/-- Meets the hypotheses of EndIsTakenByOriginAndState. -/
theorem wit_End : ((State.reset.setSlot 0 (xIn .active)).slot 0).origin = .host ∧ ((State.reset.setSlot 0 (xIn .orphan)).slot 0).state = .orphan
    ∧ ((State.reset.setSlot 0 { xIn .orphan with origin := .poll 15 }).slot 0).origin = .poll 15 := by decide +kernel

/-- Meets the hypotheses of FlushEndsTheQueuedWork. -/
theorem wit_Flush : ({ State.reset.setSlot 0 queuedX with hand := { noHandOvers with flush := some 0 } } : State).hand.flush = some 0
    ∧ queuedX.station = (0 : StationNo).address := by decide +kernel

/-- Two exchanges in host 0's backlog across a wrap of the finish counter, the older in slot 5. -/
def backlog : State :=
  { ((State.reset.setQueue 0 (List.replicate 16 ⟨0, 0, 1, 0, .noReply, 1, 0, none, false, false⟩)).setSlot 5
      { xIn .done with finish := some 65535, outcome := some .noReply }).setSlot 2
      { xIn .done with finish := some 0, outcome := some .noReply } with finish := 1 }

/-- Meets the hypotheses of PopReturnsTheHeadAndPostsTheOldest. -/
theorem wit_Pop : State.reset.queue 0 = [] ∧ (∃ c rest, backlog.queue 0 = c :: rest)
    ∧ (backlog.slot 5).finish = some 65535 ∧ (backlog.finish - (0 : Word16)).toNat < (backlog.finish - (65535 : Word16)).toNat
    ∧ (∀ j, j ≠ 5 → j ≠ 2 → (backlog.slot j).state ≠ .done) ∧ (∀ i, (State.reset.slot i).state ≠ .done) := by
  refine ⟨by decide +kernel, ⟨_, _, rfl⟩, by decide +kernel, by decide +kernel, by decide +kernel, by decide +kernel⟩

/-- A POLL_START with every argument at a limit. -/
def start31 (delay : Byte) : State := withArgs 0 [31, 0xFF, 2, 0, 64, 0xFF, 0, 1, 0, delay, 1] buf0

set_option synthInstance.maxSize 2000 in
/-- Meets the hypotheses of PollStartArmsTheLowestEntry, the checks. -/
theorem wit_PollStart : firstFailure (pollStartChecks 0 (start31 0)) none ∧ firstFailure (pollStartChecks 0 (start31 1)) none
    ∧ firstFailure (pollStartChecks 0 (withArgs 0 [0, 0, 0, 0xFF, 0, 0xFF, 0, 1, 0, 0, 0] buf0)) (some .badParam)
    ∧ firstFailure (pollStartChecks 0 (withArgs 0 [1, 0, 0, 0xFF, 0, 95, 0, 1, 0, 0, 0] buf0)) (some .badBuffer) := by
  unfold pollStartChecks
  simp only [firstFailure, fieldOwned, fieldFree]
  refine ⟨?_, ?_, ?_, ?_⟩ <;> decide +kernel

/-- Meets the hypotheses of PollStartArmsTheLowestEntry, the entry. -/
theorem wit_PollStart_entry : ((start31 0).entry 0).state = .unused ∧ arg16 0 8 9 (start31 0) = 0 ∧ arg16 0 8 9 (start31 1) ≠ 0
    ∧ arg 0 2 (start31 0) = classByte .bulk := by decide +kernel

/-- Entry 0 with a tick's claim waiting at a countdown; with room in the table, with an instance, and with none. -/
def ticked (c : Word16) (i : Option SlotNo) : State := State.reset.setEntry 0 { armedE with countdown := c, tickWaiting := true, inst := i }

/-- Meets the hypotheses of DueAndRetime, the due. -/
theorem wit_Due : ((ticked 2 none).entry 0).countdown ≠ 1 ∧ ((ticked 1 none).entry 0).countdown = 1
    ∧ ((ticked 1 (some 31)).entry 0).inst ≠ none ∧ occupancy 0 (ticked 1 none) < (ticked 1 none).active.exchangeQuota
    ∧ ((ticked 1 none).slot 0).state = .free
    ∧ ((State.reset.setPort 0 { State.reset.port 0 with phase := .releasing .plst }).port 0).phase = .releasing .plst := by decide +kernel

/-- Meets the hypotheses of DueAndRetime, the retime. -/
theorem wit_Retime : arg16 0 1 2 (withArgs 0 [15, 0, 1, 0, 0] changed15) ≠ 0 ∧ arg16 0 3 4 (withArgs 0 [15, 0, 1, 0, 0] changed15) = 0
    ∧ arg16 0 3 4 (withArgs 0 [15, 0, 1, 0, 1] changed15) ≠ 0 ∧ (changed15.entry 15).state = .armed
    ∧ ((State.reset.setEntry 0 { armedE with state := .stopping }).entry 0).state = .stopping := by decide +kernel

/-- Entry 0 with its instance in slot 31, in a state. -/
def withInstance (x : ExState) : State :=
  (State.reset.setEntry 0 { armedE with inst := some 31 }).setSlot 31 { xIn x with origin := .poll 0, tag := none }

/-- Meets the hypotheses of StopAnswersByTheInstance. -/
theorem wit_Stop : ((withInstance .queued).entry 0).inst = some 31 ∧ ((withInstance .queued).slot 31).origin = .poll 0
    ∧ ((withInstance .queued).slot 31).state = .queued ∧ ((withInstance .active).slot 31).state = .active
    ∧ (changed15.entry 15).inst = none ∧ State.reset.hand.instEnd = none
    ∧ ({ State.reset with hand := { noHandOvers with instEnd := some ⟨0, 31, .answered, 1, 0, some 0, false, some 7, false⟩ } } : State).hand.instEnd.isSome := by
  decide +kernel

/-- Meets the hypotheses of InstanceEndIsRecordedOrStops. -/
theorem wit_InstanceEnd : armedE.changeDetect = false ∧ ({ armedE with changeDetect := true } : PollEntry).lastCheck = none
    ∧ ({ armedE with changeDetect := true, lastCheck := some 7, lastLength := some 0 } : PollEntry).lastCheck = some 7
    ∧ ((7 ^^^ sequenceCorrection 0) ^^^ 7 : Word16) = sequenceCorrection 0
    ∧ ((8 : Word16) ≠ 7 ∧ (8 : Word16) ^^^ 7 ≠ sequenceCorrection 0) := by decide +kernel

/-- Meets the hypotheses of SendingEndsByItsReports. -/
theorem wit_Sent : (withReports [.sent] (onLine0 .sending (xIn .active))).lif.reports = .sent :: []
    ∧ (withReports [.sent] (onLine0 .sending (xIn .active))).engine.current = some 0 ∧ (xIn .active).station ≠ 0
    ∧ ({ xIn .active with station := 0 } : Exchange).station = 0
    ∧ ({ State.reset.engine with decided := some .aborted } : Engine).decided = some .aborted ∧ State.reset.engine.decided = none := by
  decide +kernel

/-- Meets the hypotheses of FrameStartByEngineState, FrameCompleteByClass, BadFramesAndStrays and StuckLineAndItsRecovery: each report in each engine state. -/
theorem wit_Reports : ∀ r ∈ [Report.collision, .cutComplete, .frameStart, .frameComplete ⟨1, false, false, true, 0x10, 64, 0⟩,
      .badFrame .brk, .badFrame .gap, .badFrame .check, .stuck, .recovery], ∀ e ∈ [EngineState.quiet, .idle, .sending, .awaiting, .receiving, .stuck],
    (withReports [r] (onLine0 e (xIn .active))).lif.reports = r :: [] ∧ (withReports [r] (onLine0 e (xIn .active))).engine.state = e
      ∧ (withReports [r] (onLine0 e (xIn .active))).engine.current = some 0 := by decide +kernel

/-- Meets the hypotheses of TimerExpiryAndGuardRunOut, the expiry. -/
theorem wit_Expiry : ({ waiting with engine := { waiting.engine with timer := ⟨1, true, true⟩ } } : State).engine.timer = ⟨1, true, true⟩
    ∧ waiting.engine.state = .awaiting ∧ waiting.engine.current = some 0 := by decide +kernel

/-- The guard run out and waiting at 0 with a retry due. -/
def waitsAtZero : State :=
  let s := onLine0 .quiet { xIn .active with lastResult := some .noReply }
  s.setEngine { s.engine with retryDue := true, guard := ⟨0, false, 0, 1280⟩ }

/-- Meets the hypotheses of TimerExpiryAndGuardRunOut, the guard: running, and waiting at 0 with a retry due. -/
theorem wit_Guard : (State.reset.engine.state = .quiet ∧ State.reset.engine.guard.running = true ∧ State.reset.engine.frameInProgress = false
      ∧ State.reset.engine.copyOutstanding = false ∧ State.reset.engine.retryDue = false)
    ∧ (waitsAtZero.engine.state = .quiet ∧ waitsAtZero.engine.guard.running = false ∧ waitsAtZero.engine.guard.left = 0
      ∧ waitsAtZero.engine.frameInProgress = false ∧ waitsAtZero.engine.copyOutstanding = false ∧ waitsAtZero.engine.retryDue = true
      ∧ waitsAtZero.engine.current = some 0 ∧ (waitsAtZero.slot 0).lastResult = some .noReply
      ∧ (waitsAtZero.slot 0).cancelRequested = false ∧ waitsAtZero.porst = false) := by decide +kernel

/-- Meets the hypotheses of TimerExpiryAndGuardRunOut, nothing waiting. -/
theorem wit_Guard_taken : allTaken State.reset ∧ allTaken waitsAtZero := by unfold allTaken; decide +kernel

/-- Meets the hypotheses of LineResetByEngineState. -/
theorem wit_LineReset : ∀ e ∈ [EngineState.quiet, .idle, .sending, .awaiting, .receiving, .stuck],
    portServes 0 (onLine0 e (xIn .active)) = true ∧ (onLine0 e (xIn .active)).engine.state = e ∧ (onLine0 e (xIn .active)).engine.decided = none
      ∧ (onLine0 e (xIn .active)).lif.tx = .released := by decide +kernel

/-- Meets the hypotheses of SettingsAreAppliedOrStaged. -/
theorem wit_Settings_args : [7, 2, 8, 255, 7, 15, 15, 95, 32, 96]
      = (List.range 10).map (fun k => (arg 0 (Fin.ofNat 24 k) (withArgs 0 [7, 2, 8, 255, 7, 15, 15, 95, 32, 96] idle)).toNat)
    ∧ idle.engine.state = .idle ∧ State.reset.engine.state ≠ .idle := by decide +kernel

/-- Two exchanges to grant, the first in turn in slot 4. -/
def twoQueued : State := (idle.setSlot 4 queuedX).setSlot 3 { queuedX with owner := 1, submission := 65535 }

/-- Meets the hypotheses of RunGrantsTheFirstInOrder. -/
theorem wit_Run : Grantable twoQueued (twoQueued.slot 4) ∧ GoesBefore twoQueued (twoQueued.slot 4) (twoQueued.slot 3)
    ∧ (∀ j, j ≠ 4 → j ≠ 3 → (twoQueued.slot j).state ≠ .queued) ∧ allTaken twoQueued ∧ twoQueued.engine.state = .idle
    ∧ (∀ i, (idle.slot i).state ≠ .queued) := by
  refine ⟨⟨by decide +kernel, ?_, ?_⟩, ?_, by decide +kernel, by unfold allTaken; decide +kernel, by decide +kernel, by decide +kernel⟩
  · intro n _
    have h : ∀ n, (twoQueued.station n).hold = none ∧ (twoQueued.station n).state ≠ .failed := by decide +kernel
    refine ⟨fun k hk => ?_, fun hf => absurd hf (h n).2⟩
    rw [(h n).1] at hk; exact absurd hk (by simp)
  · intro h; exact absurd h (by decide +kernel)
  · unfold GoesBefore; decide +kernel

/-- A frame of one payload byte being sent, at a character, its echo right or not there. -/
def sendingAt (k : Nat) (ok : Bool) : State :=
  (onLine0 .sending { xIn .active with requestLength := 1, requestBuffer := some 0 }).setLif { State.reset.lif with
    tx := .characters, rx := .echo
    sending := { State.reset.lif.sending with
      order := ⟨1, true, 0x10, 1⟩, index := k, value := 0x21, nextPayload := some 0xA5, bit := 128, charBits := 10
      echo := if ok then some (.good 0x21) else none } }

/-- Meets the hypotheses of FrameIsSentInOrder. -/
theorem wit_Sending : ∀ k, k ≤ 6 → ∀ ok : Bool, (sendingAt k ok).lif.tx = .characters ∧ (sendingAt k ok).lif.sending.index = k
    ∧ ((sendingAt k ok).lif.sending.echo = some (.good 0x21) ↔ ok = true) ∧ (sendingAt k ok).engine.current = some 0
    ∧ (sendingAt k ok).lif.sending.nextPayload = some 0xA5 := by decide +kernel

/-- Meets the hypotheses of FrameIsSentInOrder, the outputs: each transmit state, at the edge of a bit. -/
theorem wit_Outputs : State.reset.lif.tx = .released ∧ (opening true false).lif.tx = .opening
    ∧ (∀ j, j ≤ 9 → ∀ e ∈ [j * 128, j * 128 + 127], let s := (sendingAt 3 true).setLif { (sendingAt 3 true).lif with
          sending := { (sendingAt 3 true).lif.sending with elapsed := e } }
        s.lif.tx = .characters ∧ j * s.lif.sending.bit ≤ s.lif.sending.elapsed ∧ s.lif.sending.elapsed < (j + 1) * s.lif.sending.bit)
    ∧ (∀ lead ≤ 1, let s := (sendingAt 3 true).setLif { (sendingAt 3 true).lif with
          tx := .cutting, sending := { (sendingAt 3 true).lif.sending with lead := lead } }
        s.lif.tx = .cutting ∧ s.lif.sending.lead = lead) := by decide +kernel

/-- Meets the hypotheses of IdleClockPeriodCounts, the rates: every rate code with one and two stop bits. -/
theorem wit_Rates : ∀ code ≤ 7, ∀ stops ∈ [1, 2],
    ({ State.reset with active := { State.reset.active with rateCode := code, stopBits := stops } } : State).active.rateCode = code
    ∧ ({ State.reset with active := { State.reset.active with rateCode := code, stopBits := stops } } : State).active.stopBits = stops := by
  decide +kernel

/-- Meets the hypotheses of FrameIsSentInOrder, the opening break. -/
theorem wit_Opening : (0x3F : Byte).toNat = (31 : StationAddr).val + (if true then 32 else 0)
    ∧ (opening true false).lif.tx = .opening ∧ (opening true false).lif.sending.echoBreak = true
    ∧ (opening true false).lif.sending.markFailed = false ∧ (opening true false).lif.sending.markChecked = true
    ∧ (opening true false).lif.sending.order.station = 31 ∧ (opening true false).lif.sending.order.sequence = true
    ∧ (opening true false).porst = false := by
  decide +kernel

/-- A cut under way. -/
def cutting : State := State.reset.setLif { State.reset.lif with tx := .cutting, rx := .echo }

/-- Meets the hypotheses of FrameEndsSentOrCut: an opening break wrong and right, characters wrong, right and whole, a cut. -/
theorem wit_FrameEnds : ((opening false false).lif.tx = .opening ∧ (opening false false).lif.sending.echoBreak = false)
    ∧ ((opening true true).lif.tx = .opening ∧ (opening true true).lif.sending.markFailed = true ∧ (opening true true).lif.input = true)
    ∧ ((opening true false).lif.tx = .opening ∧ (opening true false).lif.sending.echoBreak = true
      ∧ (opening true false).lif.sending.markFailed = false ∧ (opening true false).lif.sending.markChecked = true)
    ∧ ((sendingAt 5 false).lif.tx = .characters ∧ (sendingAt 5 false).lif.sending.index < (sendingAt 5 false).lif.sending.order.length + 5
      ∧ (sendingAt 5 false).lif.sending.echo ≠ some (.good (sendingAt 5 false).lif.sending.value))
    ∧ ((sendingAt 5 true).lif.sending.index = (sendingAt 5 true).lif.sending.order.length + 4
      ∧ (sendingAt 5 true).lif.sending.echo = some (.good (sendingAt 5 true).lif.sending.value) ∧ (sendingAt 5 true).lif.run = none)
    ∧ ((sendingAt 6 true).lif.tx = .characters ∧ (sendingAt 6 true).lif.sending.index = (sendingAt 6 true).lif.sending.order.length + 5)
    ∧ (cutting.lif.tx = .cutting ∧ cutting.porst = false) ∧ State.reset.lif.tx = .released := by decide +kernel

/-- Meets the hypotheses of EdgesStartBitsAndGaps, the edges: marking, and spacing in each receive state. -/
theorem wit_Edges : (State.reset.porst = false ∧ State.reset.lif.input = true)
    ∧ (∀ r ∈ [RxSide.hunt, .inBreak, .assembling, .echo, .stuck], (spacing r 5).lif.input = false ∧ (spacing r 5).lif.rx = r ∧ (spacing r 5).porst = false)
    ∧ ({ State.reset with porst := true } : State).porst = true := by decide +kernel

/-- Meets the hypotheses of EdgesStartBitsAndGaps, nothing due at the receiver before the edge, and something due. -/
theorem wit_Edges_settled : LineSettled State.reset.lif ∧ LineSettled (spacing .hunt 1407).lif ∧ ¬ LineSettled (spacing .hunt 1408).lif := by
  rw [← dueReceive_none, ← dueReceive_none, ← dueReceive_none]
  decide +kernel

/-- Meets the hypotheses of EdgesStartBitsAndGaps, samples and gaps. -/
theorem wit_Gaps : (assembling 0 0xFFFF false).lif.gap = some ⟨2560, 0, false⟩ ∧ (assembling 0 0xFFFF false).lif.char = none
    ∧ (assembling 0 0xFFFF true).lif.char ≠ none ∧ (assembling 0 0xFFFF true).lif.rx = .assembling
    ∧ ({ (assembling 0 0xFFFF true).lif with char := some ⟨128, 1, 64, false, true, 0, false⟩, gap := some ⟨2560, 2560, true⟩ } : Lif).gap
      = some ⟨2560, 2560, true⟩ := by decide +kernel

/-- Meets the hypotheses of BreakDetectionByReceiveState. -/
theorem wit_Break : (∀ r ∈ [RxSide.hunt, .assembling, .echo, .stuck, .inBreak], (spacing r 1408).lif.run = some ⟨128, 10, 1408, false⟩
      ∧ (spacing r 1408).lif.rx = r ∧ (spacing r 1408).porst = false)
    ∧ ∀ x ∈ [TxSide.opening, .characters, .cutting],
      ((spacing .echo 1408).setLif { (spacing .echo 1408).lif with tx := x }).lif.tx = x
      ∧ ((spacing .echo 1408).setLif { (spacing .echo 1408).lif with tx := x }).lif.rx = .echo := by decide +kernel

/-- Meets the hypotheses of CharactersAreTakenByReceiveState. -/
theorem wit_Characters : (∀ k, k ≤ 4 → (assembling k 0 true).lif.frame.count = k ∧ (assembling k 0 true).lif.rx = .assembling
      ∧ (assembling k 0 true).lif.char = some ⟨128, 1, 1216, true, true, 0, false⟩ ∧ (assembling k 0 true).lif.input = true
      ∧ (assembling k 0 true).porst = false)
    ∧ (8 + 1) * 128 + 128 / 2 ≤ 1216
    ∧ (assembling 4 0 true).lif.frame.count = (assembling 4 0 true).lif.frame.length.toNat + 4
    ∧ (64 < (65 : Byte).toNat ∧ (64 : Byte).toNat ≤ 64) := by decide +kernel

/-- Meets the hypotheses of CharactersAreTakenByReceiveState in each receive state, the input marking and spacing, the character fresh and not: a whole character, good, which has no framing error, and bad, which settles with this edge. -/
theorem wit_Characters_states : ∀ r ∈ [RxSide.hunt, .assembling, .echo, .stuck, .inBreak], ∀ bad fresh level : Bool,
    let s := State.reset.setLif { State.reset.lif with rx := r, input := level, char := some ⟨128, 1, 1217, true, fresh, 0x41, bad⟩ }
    s.porst = false ∧ s.lif.rx = r ∧ s.lif.input = level ∧ s.lif.char = some ⟨128, 1, 1217, true, fresh, 0x41, bad⟩
      ∧ (8 + 1) * 128 + 128 / 2 ≤ 1217 := by decide +kernel

/-- Meets the hypotheses of StuckLineAndItsRecovery, the receiver. -/
theorem wit_Stuck : ({ State.reset.lif with run := some ⟨128, 10, 5120, true⟩, rx := .inBreak } : Lif).run ≠ none
    ∧ ({ State.reset.lif with rx := .stuck, marking := some ⟨1280, 1280⟩ } : Lif).marking ≠ none := by decide +kernel

/-- Meets the hypotheses of TickLowersEveryTimer, the tick. -/
theorem wit_Tick : State.reset.engine.timer.tickWaiting = false ∧ (∀ e, (State.reset.entry e).tickWaiting = false)
    ∧ (∀ n, (State.reset.station n).hold = none) ∧ 1 < (2 : Word16).toNat ∧ ¬ 1 < (1 : Word16).toNat
    ∧ (changed15.entry 15).state = .armed ∧ State.reset.taken = noneTaken := by decide +kernel

/-- Every timer with its coming tick's claim taken ahead. -/
def allAhead (s : State) : State := s.setTaken ⟨true, Vector.replicate 31 true, Vector.replicate 16 true⟩

/-- Meets the hypotheses of TickLowersEveryTimer, the reply timer's claim taken ahead, at its last tick and before, and taken before. -/
theorem wit_Tick_ahead_reply : waiting.porst = false ∧ waiting.engine.state = .awaiting ∧ waiting.engine.current = some 0
    ∧ waiting.engine.timer.tickWaiting = false ∧ waiting.taken.reply = false ∧ (allAhead waiting).taken.reply = true
    ∧ (waiting.setEngine { waiting.engine with timer := ⟨2, true, false⟩ }).engine.timer = ⟨2, true, false⟩
    ∧ (waiting.setEngine { waiting.engine with timer := ⟨1, true, false⟩ }).engine.timer = ⟨1, true, false⟩ := by decide +kernel

/-- Meets the hypotheses of TickLowersEveryTimer, a lease's claim taken ahead, at its last tick and before, and taken before. -/
theorem wit_Tick_ahead_lease : ((withHold 30 ⟨3, 1, [], false⟩ State.reset).station 30).hold = some ⟨3, 1, [], false⟩
    ∧ ((withHold 30 ⟨3, 2, [], false⟩ State.reset).station 30).hold = some ⟨3, 2, [], false⟩
    ∧ tget (withHold 30 ⟨3, 1, [], false⟩ State.reset).taken.leases 30 = false ∧ (State.reset.station 30).hold = none
    ∧ tget (allAhead State.reset).taken.leases 30 = true ∧ State.reset.porst = false := by decide +kernel

/-- Meets the hypotheses of TickLowersEveryTimer, an entry's claim taken ahead, at its last tick and before, and taken before. -/
theorem wit_Tick_ahead_entry : (changed15.entry 15).state = .armed ∧ (changed15.entry 15).countdown = 5
    ∧ (changed15.entry 15).tickWaiting = false ∧ tget changed15.taken.entries 15 = false ∧ changed15.porst = false
    ∧ ((State.reset.setEntry 15 { armedE with countdown := 1 }).entry 15).countdown = 1
    ∧ (State.reset.entry 15).state ≠ .armed ∧ tget (allAhead changed15).taken.entries 15 = true := by decide +kernel

/-- Meets the hypotheses of IdleClockPeriodCounts: the guard running, held and at 0; a service under way; each measure of the line running. -/
theorem wit_Clock : (State.reset.porst = false ∧ State.reset.pending = [] ∧ dueEvent State.reset = none
      ∧ (∀ h, (State.reset.port h).waiting = []) ∧ State.reset.engine.guard.running = true ∧ 0 < State.reset.engine.guard.left)
    ∧ dueEvent { State.reset with prescaler := ⟨14745, 0⟩ } = none ∧ dueEvent { State.reset with prescaler := ⟨14745, 1⟩ } = some .tick
    ∧ dueEvent (State.reset.setEngine { State.reset.engine with frameInProgress := true, guard := ⟨2, false, 0, 1280⟩ }) = none
    ∧ dueEvent (State.reset.setEngine { State.reset.engine with copyOutstanding := true, guard := ⟨0, false, 0, 1280⟩ }) = none
    ∧ (dueEvent (inService 1) = none ∧ dueEvent (inService 64) = none)
    ∧ (dueEvent (opening true false) = none ∧ dueEvent (spacing .inBreak 1500) = none ∧ dueEvent (assembling 2 0 false) = none
      ∧ dueEvent ((assembling 2 0 false).setLif { (assembling 2 0 false).lif with char := some ⟨128, 1, 191, true, true, 0, false⟩ }) = none
      ∧ dueEvent (State.reset.setLif { State.reset.lif with rx := .stuck, marking := some ⟨1280, 1279⟩ }) = none) := by
  decide +kernel

/-- Meets the hypotheses of ResetPinStopsAndStartsThePort. -/
theorem wit_Pins : (State.reset.port 0).pin = false ∧ (State.reset.port 0).phase = .serving ∧ portInService 0 State.reset = false
    ∧ ((inService 64).port 0).pin = false ∧ ((inService 64).port 0).phase = .serving
    ∧ (inService 64).service = some ⟨.port 0 ⟨0x00, .ok, (State.reset.port 0).params⟩, 64⟩
    ∧ ((inPhase .held true).port 0).pin = true ∧ ((inPhase .held true).port 0).phase = .held
    ∧ ((inPhase (.releasing .xtab) false).port 0).phase = .releasing .xtab ∧ ((inPhase (.releasing .xtab) false).port 0).pin = false
    ∧ ((inPhase (.releasing .xtab) true).port 0).phase = .releasing .xtab ∧ ((inPhase (.releasing .xtab) true).port 0).pin = true := by
  decide +kernel

/-- Meets the hypotheses of the five statements about a release's parts. -/
theorem wit_Parts : ∀ p ∈ [ReleasePart.xtab, .bpool, .plst, .stab, .cq, .nctl, .port],
    ((inPhase (.releasing p) false).port 0).phase = .releasing p ∧ (inPhase (.releasing p) false).porst = false
      ∧ (inPhase (.releasing p) false).hand.instEnd = none := by decide +kernel

/-- Meets the hypotheses of the statements about a release's parts, with work to deal with. -/
theorem wit_Parts_work : (withInstance .active).holder 0 = .free ∧ buf0.holder 0 = .host 0
    ∧ ((withInstance .active).entry 0).owner = 0 ∧ (held.station 0).hold = some ⟨0, 1, [⟨1, 65535⟩], true⟩ := by decide +kernel

/-- Host 0's release come to the Station Table. -/
def releasingStab (s : State) : State := s.setPort 0 { s.port 0 with phase := .releasing .stab }

/-- Meets the hypotheses of ReleaseAtTheStationTable: host 0's release with a station of its own to hand over, and with none. -/
theorem wit_Stab : ((releasingStab skipping).port 0).phase = .releasing .stab ∧ (releasingStab skipping).porst = false
    ∧ ((releasingStab skipping).station 0).hold = some ⟨0, 1, [⟨2, 7⟩, ⟨1, 9⟩], false⟩
    ∧ (∀ n, n ≠ 0 → ∀ k ∈ ((releasingStab skipping).station n).hold, k.holder ≠ 0)
    ∧ ((releasingStab State.reset).port 0).phase = .releasing .stab ∧ (∀ n, ((releasingStab State.reset).station n).hold = none) := by
  decide +kernel

/-- Meets the hypotheses of ReleaseAtQueueNoticesAndPort, the port's part with accesses waiting and none, and with pin edges. -/
theorem wit_Port_part : (∀ e, e ≤ 3 → ((withWaiting (.releasing .port) e).port 0).edges = e
      ∧ ((withWaiting (.releasing .port) e).port 0).phase = .releasing .port ∧ ((withWaiting (.releasing .port) e).port 0).waiting ≠ [])
    ∧ ((inPhase (.releasing .port) false).port 0).waiting = [] ∧ ((inPhase (.releasing .port) false).port 0).edges = 0 := by decide +kernel

/-- Meets the hypotheses of PowerOnResetSetsEveryBlock. -/
theorem wit_PowerOnRelease : ({ State.reset with porst := true } : State).porst = true := by decide

/-- In the states that the witnesses of host commands name, the host's port serves. -/
theorem wit_Serves_states : ∀ s ∈ [buf0, submit31, start31 0, start31 1, unread31, changed15, held, four, backlog, idle,
    withStation 0 .failed State.reset, withInstance .queued, withInstance .active, State.reset.setSlot 0 queuedX,
    State.reset.setSlot 0 (xIn .done), withArgs 0 [7, 2, 8, 255, 7, 15, 15, 95, 32, 96] idle],
    ∀ h, portServes h s = true := by decide +kernel

/-- In the states that the witnesses of events name, the power-on reset input is released. -/
theorem wit_Released_states : ∀ s ∈ [waiting, busy, ticked 1 none, ticked 2 none, skipping, twoQueued, sendingAt 0 true,
    assembling 4 0 true, claims0 (.read 63), claims3 (.clear 95 1 95), withReports [.sent] (onLine0 .sending (xIn .active)),
    inPhase (.releasing .xtab) false, onLine0 .quiet (xIn .active), withInstance .orphan], s.porst = false := by decide +kernel

end Sys2Proof.Tests
end

section
/-! The check of the frame (R8): the division it is, its linearity, and what follows for a frame's own check and for the sequence bit. -/

namespace Sys2Proof.FieldLine

open Sys2Proof.Machine

/-! ## The check as a division and as a linear map -/

/-- One bit fed into the division by x^16 + x^12 + x^5 + 1 (R8). -/
def divisionStep (r : Word16) (x : Bool) : Word16 :=
  (r <<< 1) ^^^ (if r.getLsbD 15 != x then 0x1021 else 0x0000)

theorem checkShift_succ (n : Nat) (c : Word16) : checkShift (n + 1) c = checkShift n (divisionStep c false) := by
  have hmsb : c.msb = c.getLsbD 15 := BitVec.msb_eq_getLsbD_last c
  unfold divisionStep
  rw [checkShift, hmsb]
  cases c.getLsbD 15
  · simp
  · rfl

theorem divisionStep_xor (r q : Word16) (x y : Bool) :
    divisionStep (r ^^^ q) (x ^^ y) = divisionStep r x ^^^ divisionStep q y := by
  have hparts : ∀ a b c d : Word16, a ^^^ b ^^^ (c ^^^ d) = a ^^^ c ^^^ (b ^^^ d) := by
    intro a b c d; ac_rfl
  unfold divisionStep
  rw [BitVec.getLsbD_xor, BitVec.shiftLeft_xor_distrib, hparts]
  congr 1
  cases r.getLsbD 15 <;> cases q.getLsbD 15 <;> cases x <;> cases y <;> rfl

/-- The bits of a byte that wait above a remainder, `k` of the eight having been fed in. -/
theorem divisionStep_waiting (b : Byte) (k : Nat) (hk : k < 8) :
    divisionStep (b.zeroExtend 16 <<< (8 + k)) (b.getLsbD (7 - k)) = b.zeroExtend 16 <<< (8 + (k + 1)) := by
  have hbit : (b.zeroExtend 16 <<< (8 + k)).getLsbD 15 = b.getLsbD (7 - k) := by
    have : 15 - (8 + k) = 7 - k := by omega
    rw [BitVec.getLsbD_shiftLeft, this]
    have h15 : ¬ 15 < 8 + k := by omega
    simp only [BitVec.zeroExtend_eq_setWidth, BitVec.getLsbD_setWidth, h15, decide_false, Bool.not_false]
    simp [show 7 - k < 16 by omega]
  unfold divisionStep
  rw [hbit, ← BitVec.shiftLeft_add]
  simp [Nat.add_assoc]

theorem checkShift_division (b : Byte) : ∀ (n k : Nat) (r : Word16), k + n = 8 →
    checkShift n (r ^^^ b.zeroExtend 16 <<< (8 + k))
      = (List.range' k n).foldl (fun r j => divisionStep r (b.getLsbD (7 - j))) r
  | 0, k, r, hk => by
    obtain rfl : k = 8 := by omega
    simp [checkShift]
  | n + 1, k, r, hk => by
    have hstep := divisionStep_xor r (b.zeroExtend 16 <<< (8 + k)) (b.getLsbD (7 - k)) (b.getLsbD (7 - k))
    rw [Bool.xor_self, divisionStep_waiting b k (by omega)] at hstep
    rw [checkShift_succ, hstep, List.range'_succ, List.foldl_cons]
    exact checkShift_division b n (k + 1) _ (by omega)

/-- The check over one more byte is the division of its bits, most significant first. -/
theorem checkByte_division (c : Word16) (b : Byte) :
    checkByte c b = (List.range 8).foldl (fun r k => divisionStep r (b.getLsbD (7 - k))) c := by
  rw [List.range_eq_range']
  exact checkShift_division b 8 0 c rfl

theorem checkShift_xor : ∀ (n : Nat) (c d : Word16), checkShift n (c ^^^ d) = checkShift n c ^^^ checkShift n d
  | 0, _, _ => rfl
  | n + 1, c, d => by
    have hstep := divisionStep_xor c d false false
    rw [Bool.xor_self] at hstep
    rw [checkShift_succ, hstep, checkShift_xor n, ← checkShift_succ, ← checkShift_succ]

theorem checkByte_xor (c d : Word16) (a b : Byte) : checkByte (c ^^^ d) (a ^^^ b) = checkByte c a ^^^ checkByte d b := by
  unfold checkByte
  rw [← checkShift_xor]
  congr 1
  rw [BitVec.zeroExtend_eq_setWidth, BitVec.setWidth_xor, BitVec.shiftLeft_xor_distrib]
  ac_rfl

/-- Two checks over the same bytes differ as the check over as many zero bytes from the difference they began with. -/
theorem checkBytes_xor : ∀ (bytes : List Byte) (c d : Word16),
    checkBytes c bytes ^^^ checkBytes d bytes = checkBytes (c ^^^ d) (List.replicate bytes.length 0)
  | [], _, _ => rfl
  | b :: bytes, c, d => by
    have hb := checkByte_xor c d b b
    rw [BitVec.xor_self] at hb
    simp only [checkBytes, List.foldl_cons, List.length_cons, List.replicate_succ]
    rw [show (0 : Byte) = 0#8 from rfl, hb]
    exact checkBytes_xor bytes _ _

/-! ## A frame's own check closes to 0 -/

/-- While no bit reaches the top the division only shifts. -/
theorem checkShift_small : ∀ (n : Nat) (w : Word16), w.toNat * 2 ^ n < 2 ^ 16 → checkShift n w = w <<< n
  | 0, w, _ => by simp [checkShift]
  | n + 1, w, h => by
    have hpos : 1 ≤ 2 ^ n := Nat.one_le_two_pow
    have hpow : w.toNat * 2 * 2 ^ n < 2 ^ 16 := by rw [Nat.mul_assoc, ← Nat.pow_succ']; exact h
    have htwice : w.toNat * 2 < 2 ^ 16 := lt_of_le_of_lt (Nat.le_mul_of_pos_right _ hpos) hpow
    have hmsb : w.msb = false := by rw [BitVec.msb_eq_false_iff_two_mul_lt]; omega
    have hshift : (w <<< 1).toNat = w.toNat * 2 := by
      rw [BitVec.toNat_shiftLeft, Nat.shiftLeft_eq, pow_one, Nat.mod_eq_of_lt htwice]
    rw [checkShift, hmsb, if_neg Bool.false_ne_true, checkShift_small n _ (by rw [hshift]; exact hpow),
      ← BitVec.shiftLeft_add, Nat.add_comm 1 n]

theorem checkByte_hiByte (w : Word16) : checkByte w (hiByte w) = (loByte w).zeroExtend 16 <<< 8 := by
  have hlow : w ^^^ (hiByte w).zeroExtend 16 <<< 8 = (loByte w).zeroExtend 16 := by
    unfold hiByte loByte
    ext i hi
    have hbit : w[i] = w.getLsbD i := (BitVec.getLsbD_eq_getElem hi).symm
    by_cases h8 : i < 8
    · simp [h8, hbit]
    · simp [h8, hbit, show i - 8 < 8 by omega, show 8 + (i - 8) = i by omega]
  unfold checkByte
  rw [hlow]
  apply checkShift_small
  have := (loByte w).isLt
  simp
  omega

theorem checkBytes_own_check (c : Word16) : checkBytes c [hiByte c, loByte c] = 0 := by
  simp only [checkBytes, List.foldl_cons, List.foldl_nil, checkByte_hiByte]
  unfold checkByte
  rw [BitVec.xor_self]
  rfl

theorem checkBytes_append (c : Word16) (a b : List Byte) : checkBytes c (a ++ b) = checkBytes (checkBytes c a) b :=
  List.foldl_append

/-! ## The sequence bit -/

/-- The checks of two replies that differ in the sequence bit alone differ by the sequence correction (R136). -/
theorem checkBytes_sequence_bit (c : Word16) (address : Byte) (rest : List Byte) :
    checkBytes c ((address ^^^ 0x20) :: rest) ^^^ checkBytes c (address :: rest)
      = checkBytes 0 (0x20 :: List.replicate rest.length 0) := by
  have hdiff : checkByte c (address ^^^ 0x20) ^^^ checkByte c address = checkByte 0 0x20 := by
    rw [← checkByte_xor, BitVec.xor_self, BitVec.xor_comm address, BitVec.xor_assoc, BitVec.xor_self, BitVec.xor_zero]
    rfl
  simp only [checkBytes, List.foldl_cons]
  rw [← hdiff]
  exact checkBytes_xor rest _ _

/-- Settles O37, by the linearity of the check and by induction over the bytes. -/
theorem checksCloseAndCorrect : Obligations.ChecksCloseAndCorrect := by
  refine ⟨checkByte_division, rfl, by decide +kernel, fun bytes => ?_, fun address function length payload => ?_⟩
  · rw [checkBytes_append, checkBytes_own_check]
  · exact checkBytes_sequence_bit checkInit address (function :: length :: payload)

end Sys2Proof.FieldLine
end

section
/-! The transmit side (R2, R4, R6 to R13): the outputs, the order of the frame's characters, the comparator, and how a frame ends. -/

namespace Sys2Proof.FieldLine

open Sys2Proof.Machine

/-! ## What the commands do while the power-on reset input is released -/

section
variable {s : State} (hp : s.porst = false)
include hp

theorem exec_openingBreakEnd : exec .openingBreakEnd s = .next (openingBreakEnd s) := internal_spec.1 hp
theorem exec_characterSent : exec .characterSent s = .next (characterSent s) := internal_spec.1 hp
theorem exec_echoCollision : exec .echoCollision s = .next (echoCollision s) := internal_spec.1 hp
theorem exec_frameSent : exec .frameSent s = .next (frameSent s) := internal_spec.1 hp
theorem exec_cutBreakEnd : exec .cutBreakEnd s = .next (cutBreakEnd s) := internal_spec.1 hp

end

/-! ## What the comparator looks at -/

theorem frameChars_eq (d : Sending) : frameChars d = d.order.length + 5 := rfl

theorem echoRight_iff (d : Sending) : echoRight d = true ↔ d.echo = some (.good d.value) := by simp [echoRight]

theorem echoRight_false_iff (d : Sending) : echoRight d = false ↔ d.echo ≠ some (.good d.value) := by simp [echoRight]

theorem markRight_iff (l : Lif) :
    markRight l = true ↔ l.sending.markFailed = false ∧ (l.sending.markChecked = true ∨ l.input = true) := by
  simp [markRight]

theorem markRight_false_iff (l : Lif) :
    markRight l = false ↔ l.sending.markFailed = true ∨ (l.sending.markChecked = false ∧ l.input = false) := by
  cases hf : l.sending.markFailed <;> simp [markRight, hf]

theorem runReached_iff (r : Option SpacingRun) : runReached r = true ↔ ∃ x, r = some x ∧ x.reached = true := by
  cases r <;> simp [runReached]

/-- The comparator's failures by the state of the transmit side (R12). -/
theorem comparatorFails_iff (l : Lif) :
    comparatorFails l = true ↔
      (l.tx = .opening ∧ (l.sending.echoBreak = false
        ∨ l.sending.markFailed = true ∨ (l.sending.markChecked = false ∧ l.input = false)))
      ∨ (l.tx = .characters ∧ ((l.sending.index < l.sending.order.length + 5 ∧ l.sending.echo ≠ some (.good l.sending.value))
        ∨ ∃ r, l.run = some r ∧ r.reached = true)) := by
  unfold comparatorFails
  rw [← markRight_false_iff, ← runReached_iff, ← echoRight_false_iff, ← frameChars_eq]
  cases l.tx <;> simp

theorem frameWhole_iff (d : Sending) :
    frameWhole d = true ↔ d.index = d.order.length + 5 ∨ (d.index = d.order.length + 4 ∧ d.echo = some (.good d.value)) := by
  simp only [frameWhole, Bool.or_eq_true, Bool.and_eq_true, decide_eq_true_eq, echoRight_iff]
  rw [frameChars_eq, show d.index + 1 = d.order.length + 5 ↔ d.index = d.order.length + 4 by omega]

/-! ## The outputs (R2, R4, R13) -/

theorem driverEnable_iff (s : State) : driverEnable s = true ↔ s.lif.tx ≠ .released := by simp [driverEnable]

theorem txData_released {s : State} (h : s.lif.tx = .released) : txData s = true := by simp [txData, h]

theorem txData_opening {s : State} (h : s.lif.tx = .opening) :
    txData s = true ↔ 16 * s.lif.sending.bit ≤ s.lif.sending.elapsed := by
  simp only [txData, h, Bool.not_eq_true', decide_eq_false_iff_not, not_lt]
  rfl

theorem txData_cutting_lead {s : State} (h : s.lif.tx = .cutting) (hl : 0 < s.lif.sending.lead) :
    txData s = s.lif.sending.leadLevel := by
  simp [txData, h, hl]

theorem txData_cutting_break {s : State} (h : s.lif.tx = .cutting) (hl : s.lif.sending.lead = 0) :
    txData s = true ↔ 16 * s.lif.sending.bit ≤ s.lif.sending.elapsed := by
  simp only [txData, h, hl, lt_irrefl, if_false, Bool.not_eq_true', decide_eq_false_iff_not, not_lt]
  rfl

/-- In bit `j` of a character being sent the data output shows that bit. -/
theorem txData_characters {s : State} {j : Nat} (h : s.lif.tx = .characters)
    (hlo : j * s.lif.sending.bit ≤ s.lif.sending.elapsed) (hhi : s.lif.sending.elapsed < (j + 1) * s.lif.sending.bit) :
    txData s = characterLevel s.lif.sending.value j := by
  simp only [txData, h]
  rw [Nat.div_eq_of_lt_le hlo hhi]

theorem characterLevel_start (v : Byte) : characterLevel v 0 = false := rfl

theorem characterLevel_data (v : Byte) {k : Nat} (hk : k < 8) : characterLevel v (k + 1) = v.getLsbD k := by
  simp [characterLevel, show k + 1 ≤ 8 by omega]

theorem characterLevel_stop (v : Byte) {j : Nat} (hj : 9 ≤ j) : characterLevel v j = true := by
  simp [characterLevel, show j ≠ 0 by omega, show ¬ j ≤ 8 by omega]

/-! ## The characters of a frame in their order (R6 to R8) -/

/-- The address byte is the station and, at bit 5, the sequence bit (R7). -/
theorem addressByte_toNat (a : StationAddr) (q : Bool) : (addressByte a q).toNat = a.val + (if q then 32 else 0) := by
  revert a q
  decide

theorem addressByte_unique {a : Byte} {station : StationAddr} {q : Bool}
    (h : a.toNat = station.val + (if q then 32 else 0)) : a = addressByte station q :=
  BitVec.eq_of_toNat_eq (h.trans (addressByte_toNat station q).symm)

section
variable (d : Sending)

theorem characterValue_function :
    characterValue d 1 = some (d.order.function, checkByte d.check d.order.function, d.nextPayload) := rfl

theorem characterValue_length :
    characterValue d 2 = some (natByte d.order.length, checkByte d.check (natByte d.order.length), d.nextPayload) := rfl

theorem characterValue_payload {i : Nat} (hi : 3 ≤ i) (hl : i < d.order.length + 3) :
    characterValue d i = d.nextPayload.map fun b => (b, checkByte d.check b, none) := by
  simp [characterValue, show i ≠ 1 by omega, show i ≠ 2 by omega, hl]

theorem characterValue_checkHigh :
    characterValue d (d.order.length + 3) = some (hiByte d.check, d.check, d.nextPayload) := by
  simp [characterValue]

theorem characterValue_checkLow :
    characterValue d (d.order.length + 4) = some (loByte d.check, d.check, d.nextPayload) := by
  simp [characterValue]

end

/-! ## OPENING_BREAK_END and CHARACTER_SENT -/

theorem openingBreakEnd_begins {s : State} (ht : s.lif.tx = .opening) (hb : s.lif.sending.echoBreak = true)
    (hm : markRight s.lif = true) :
    openingBreakEnd s =
      beginCharacter 0 (addressByte s.lif.sending.order.station s.lif.sending.order.sequence)
        (checkByte checkInit (addressByte s.lif.sending.order.station s.lif.sending.order.sequence)) none s :=
  if_pos ⟨ht, hb, hm⟩

theorem openingBreakEnd_nothing {s : State}
    (h : s.lif.tx ≠ .opening ∨ s.lif.sending.echoBreak = false ∨ markRight s.lif = false) : openingBreakEnd s = s := by
  refine if_neg ?_
  rintro ⟨ht, hb, hm⟩
  rcases h with h | h | h
  · exact h ht
  · simp [h] at hb
  · simp [h] at hm

/-- A collision is one report and at once the cut (R12, R13). -/
theorem collide_spec {s : State} (h : s.lif.tx = .opening ∨ s.lif.tx = .characters) :
    CutBegun (s.lif.reports ++ [.collision]) s (collide s) := by
  obtain ⟨hlif, hfetch, hother, hrest⟩ := cut_spec (s := s.setLif (s.lif.give .collision)) h
  exact ⟨hlif, hfetch, hother, congrArg (·.setLif s.lif) hrest⟩

theorem characterSent_collides {s : State} (ht : s.lif.tx = .characters)
    (hi : s.lif.sending.index < s.lif.sending.order.length + 5)
    (he : s.lif.sending.echo ≠ some (.good s.lif.sending.value)) : characterSent s = collide s := by
  have hr := (echoRight_false_iff _).2 he
  simp [characterSent, ht, frameChars_eq, hi, hr]

section
variable {s : State} (ht : s.lif.tx = .characters) (he : s.lif.sending.echo = some (.good s.lif.sending.value))
include ht he

theorem characterSent_last (hl : s.lif.sending.index = s.lif.sending.order.length + 4) :
    characterSent s = s.setLif { s.lif with
      sending := { s.lif.sending with index := s.lif.sending.order.length + 5, echo := none } } := by
  have hr := (echoRight_iff _).2 he
  simp [characterSent, ht, frameChars_eq, hr, hl]

variable (hi : s.lif.sending.index < s.lif.sending.order.length + 4)
include hi

/-- With a right echo before the last character, the next one begins once its value is there. -/
theorem characterSent_begins {v : Byte} {c : Word16} {p : Option Byte}
    (hv : characterValue s.lif.sending (s.lif.sending.index + 1) = some (v, c, p)) :
    CharacterBegun (s.lif.sending.index + 1) v c p s (characterSent s) := by
  have hr := (echoRight_iff _).2 he
  have hsent : characterSent s = beginCharacter (s.lif.sending.index + 1) v c p s := by
    simp [characterSent, ht, frameChars_eq, hr, hv, show s.lif.sending.index < s.lif.sending.order.length + 5 by omega,
      show s.lif.sending.index ≠ s.lif.sending.order.length + 4 by omega]
  rw [hsent]
  exact beginCharacter_spec _ v c p s

theorem characterSent_waits (hv : characterValue s.lif.sending (s.lif.sending.index + 1) = none) :
    characterSent s = s := by
  have hr := (echoRight_iff _).2 he
  simp [characterSent, ht, frameChars_eq, hr, hv, show s.lif.sending.index ≠ s.lif.sending.order.length + 4 by omega]

end

/-- Settles O46: the outputs by the state of the transmit side, then OPENING_BREAK_END, then CHARACTER_SENT by the index of the character. -/
theorem frameIsSentInOrder : Obligations.FrameIsSentInOrder := by
  refine ⟨fun s => ?_, fun s hp => ?_⟩
  · refine ⟨driverEnable_iff s, txData_released, txData_opening,
      fun h => ⟨txData_cutting_lead h, txData_cutting_break h⟩, fun h j hlo hhi => ?_⟩
    rw [txData_characters h hlo hhi]
    refine ⟨?_, ?_, characterLevel_stop _⟩
    · rintro rfl
      exact characterLevel_start _
    · rintro k hk rfl
      exact characterLevel_data _ hk
  · refine ⟨?_, ?_, ?_⟩
    · intro a ht hb hf hm ha
      obtain rfl := addressByte_unique ha
      refine ⟨_, beginCharacter_spec 0 _ _ none s, ?_⟩
      rw [exec_openingBreakEnd hp, openingBreakEnd_begins ht hb ((markRight_iff _).2 ⟨hf, hm⟩)]
    · intro h
      rw [exec_openingBreakEnd hp, openingBreakEnd_nothing (by rwa [markRight_false_iff])]
    · intro ht hi
      rw [exec_characterSent hp]
      refine ⟨fun he => ⟨_, collide_spec (.inr ht), ?_⟩, fun he => ⟨?_, ?_, ?_, ?_, ?_, ?_⟩⟩
      · rw [characterSent_collides ht hi he]
      · intro h0
        have := characterSent_begins ht he (by omega) (by rw [h0]; exact characterValue_function _)
        exact ⟨_, by rwa [h0] at this, rfl⟩
      · intro h1
        have := characterSent_begins ht he (by omega) (by rw [h1]; exact characterValue_length _)
        exact ⟨_, by rwa [h1] at this, rfl⟩
      · intro h2 hl
        have hv := characterValue_payload s.lif.sending (i := s.lif.sending.index + 1) (by omega) (by omega)
        refine ⟨fun b hb => ⟨_, characterSent_begins ht he (by omega) (by rw [hv, hb]; rfl), rfl⟩, fun hb => ?_⟩
        rw [characterSent_waits ht he (by omega) (by rw [hv, hb]; rfl)]
      · intro h
        exact ⟨_, characterSent_begins ht he (by omega) (by rw [h]; exact characterValue_checkHigh _), rfl⟩
      · intro h
        exact ⟨_, characterSent_begins ht he (by omega) (by rw [h]; exact characterValue_checkLow _), rfl⟩
      · intro h
        rw [characterSent_last ht he h]

/-! ## ECHO_COLLISION, FRAME_SENT and CUT_BREAK_END -/

theorem echoCollision_fails {s : State} (h : comparatorFails s.lif = true) : echoCollision s = collide s := if_pos h

theorem echoCollision_nothing {s : State} (h : ¬ comparatorFails s.lif = true) : echoCollision s = s := if_neg h

/-- Only a frame being sent can fail the comparator. -/
theorem comparatorFails_sends {l : Lif} (h : comparatorFails l = true) : l.tx = .opening ∨ l.tx = .characters := by
  rcases (comparatorFails_iff l).1 h with ⟨ht, -⟩ | ⟨ht, -⟩
  · exact .inl ht
  · exact .inr ht

theorem frameSent_whole {s : State} (ht : s.lif.tx = .characters) (hw : frameWhole s.lif.sending = true) :
    DriverReleased .sent s (frameSent s) := by
  rw [frameSent, if_pos ⟨ht, hw⟩]
  exact releaseDriver_spec .sent s

theorem frameSent_nothing {s : State} (h : s.lif.tx ≠ .characters ∨ ¬ frameWhole s.lif.sending = true) : frameSent s = s :=
  if_neg (not_and_or.2 h)

theorem cutBreakEnd_cutting {s : State} (ht : s.lif.tx = .cutting) : DriverReleased .cutComplete s (cutBreakEnd s) := by
  rw [cutBreakEnd, if_pos ht]
  exact releaseDriver_spec .cutComplete s

theorem cutBreakEnd_nothing {s : State} (ht : s.lif.tx ≠ .cutting) : cutBreakEnd s = s := if_neg ht

/-- Settles O47: each of the three events by whether what it reports stands. -/
theorem frameEndsSentOrCut : Obligations.FrameEndsSentOrCut := by
  intro s hp d broken markWrong wrong whole
  have hwrong : comparatorFails s.lif = true ↔ wrong := comparatorFails_iff s.lif
  have hwhole : frameWhole s.lif.sending = true ↔ whole := frameWhole_iff s.lif.sending
  rw [exec_echoCollision hp, exec_frameSent hp, exec_cutBreakEnd hp, ← hwrong, ← hwhole]
  refine ⟨fun h => ⟨_, collide_spec (comparatorFails_sends h), by rw [echoCollision_fails h]⟩,
    fun h => by rw [echoCollision_nothing h], fun ht hw => ⟨_, frameSent_whole ht hw, rfl⟩,
    fun h => by rw [frameSent_nothing h], fun ht => ⟨_, cutBreakEnd_cutting ht, rfl⟩,
    fun ht => by rw [cutBreakEnd_nothing ht]⟩

end Sys2Proof.FieldLine
end

section
/-! The receive side (R3, R5, R12, R14 to R19): edges of the input, start bits and gaps, breaks, and received characters by the receive side's state. -/

namespace Sys2Proof.FieldLine

open Sys2Proof.Machine

/-! ## Edges of the input -/

section
variable {s : State}

theorem exec_markToSpaceEdge : exec .markToSpaceEdge s = .next (markToSpaceEdge s) := rfl
theorem exec_spaceToMarkEdge : exec .spaceToMarkEdge s = .next (spaceToMarkEdge s) := rfl
theorem exec_breakEnd (hp : s.porst = false) : exec .breakEnd s = .next (breakEnd s) := internal_spec.1 hp

theorem markToSpaceEdge_held (hp : s.porst = true) : markToSpaceEdge s = s.setLif { s.lif with input := false } :=
  if_pos hp

theorem spaceToMarkEdge_held (hp : s.porst = true) : spaceToMarkEdge s = s.setLif { s.lif with input := true } :=
  if_pos hp

theorem markToSpaceEdge_marking (hp : s.porst = false) (hi : s.lif.input = true) : markToSpaceEdge s = fall (catchUp s) := by
  simp [markToSpaceEdge, markToSpace, hp, hi]

theorem markToSpaceEdge_spacing (hp : s.porst = false) (hi : s.lif.input = false) : markToSpaceEdge s = s := by
  simp [markToSpaceEdge, markToSpace, hp, hi]

theorem spaceToMarkEdge_marking (hp : s.porst = false) (hi : s.lif.input = true) : spaceToMarkEdge s = s := by
  simp [spaceToMarkEdge, spaceToMark, hp, hi]

theorem spaceToMarkEdge_spacing (hp : s.porst = false) (hi : s.lif.input = false) : spaceToMarkEdge s = rise (catchUp s) := by
  simp [spaceToMarkEdge, spaceToMark, hp, hi]

theorem breakEnd_marking (hi : s.lif.input = true) : breakEnd s = s := by simp [breakEnd, hi]

theorem breakEnd_inBreak (hi : s.lif.input = false) (hx : (catchUp s).lif.rx = .inBreak) :
    breakEnd s = rise (catchUp s) := by
  simp [breakEnd, hi, hx]

theorem breakEnd_elsewhere (hx : (catchUp s).lif.rx ≠ .inBreak) : breakEnd s = s := by simp [breakEnd, hx]

end

/-- A falling edge, written with the settings of a state that has the same active record. -/
theorem fall_eq {s u : State} (h : u.active = s.active) :
    fall u = u.setLif { u.lif with
      input := false, run := some (freshRun s), marking := none
      char := some (u.lif.char.getD ⟨bitClocks s, s.active.stopBits, 0, false, true, 0, false⟩) } := by
  simp [fall, newRun, freshRun, bitClocks, charBits, h]

/-! ## What a rising edge does by the receive side's state (R5, R17, R19) -/

section
variable {s : State}

theorem rise_inBreak (h : s.lif.rx = .inBreak) :
    rise s = s.setLif { s.lif with
      input := true, run := none, rx := .assembling, gap := some ⟨2 * charClocks s, 0, false⟩ } := by
  simp [rise, h, Config.gapCharacters]

theorem rise_stuck (h : s.lif.rx = .stuck) :
    rise s = s.setLif { s.lif with input := true, run := none, marking := some ⟨charClocks s, 0⟩ } := by
  simp [rise, h]

theorem rise_elsewhere (h : s.lif.rx = .hunt ∨ s.lif.rx = .assembling ∨ s.lif.rx = .echo) :
    rise s = s.setLif { s.lif with input := true, run := none } := by
  rcases h with h | h | h <;> simp [rise, h]

end

/-! ## HALF_BIT_SAMPLE and GAP_LIMIT (R3, R17) -/

section
variable {s : State} {c : RxChar} (hc : s.lif.char = some c) (hv : c.valid = false)
include hc hv

theorem halfBitSample_spacing (hi : s.lif.input = false) :
    halfBitSample s = s.setLif { s.lif with
      char := some { c with valid := true }, gap := if s.lif.rx = .assembling then none else s.lif.gap } := by
  simp [halfBitSample, hc, hv, hi]

theorem halfBitSample_glitch (hi : s.lif.input = true) (hg : s.lif.rx ≠ .assembling ∨ gapPassed s.lif.gap = false) :
    halfBitSample s = s.setLif { s.lif with char := none } := by
  simp only [halfBitSample, hc, hv, hi, Bool.false_eq_true, if_false, if_true]
  refine if_neg ?_
  rintro ⟨hx, hpass⟩
  rcases hg with hg | hg
  · exact hg hx
  · simp [hg] at hpass

theorem halfBitSample_late (hi : s.lif.input = true) (hx : s.lif.rx = .assembling) (hg : gapPassed s.lif.gap = true) :
    halfBitSample s = failFrame .gap (s.setLif { s.lif with char := none }) := by
  simp [halfBitSample, hc, hv, hi, hx, hg]

end

theorem gapPassed_false {g : Option Gap} (h : ∀ x, g = some x → x.passed = false) : gapPassed g = false := by
  cases g with
  | none => rfl
  | some x => exact h x rfl

section
variable {s : State} {g : Gap} (hx : s.lif.rx = .assembling) (hg : s.lif.gap = some g) (hn : g.passed = false)
include hx hg hn

theorem gapLimit_fails (hc : s.lif.char = none) : gapLimit s = failFrame .gap s := by
  simp [gapLimit, hx, hg, hn, hc]

theorem gapLimit_underTest (hc : s.lif.char ≠ none) :
    gapLimit s = s.setLif { s.lif with gap := some { g with passed := true } } := by
  have : s.lif.char.isSome = true := Option.isSome_iff_ne_none.2 hc
  simp [gapLimit, hx, hg, hn, this]

end

/-- Settles O48: the edges by the level that stands and by what catching up leaves, then HALF_BIT_SAMPLE, then GAP_LIMIT. -/
theorem edgesStartBitsAndGaps : Obligations.EdgesStartBitsAndGaps := by
  refine ⟨fun s => ⟨fun hp hi => ?_, fun hp hi => ?_, fun hp => ?_⟩, fun s hp => ⟨fun c hc hv => ?_, fun g hx hg hn => ?_⟩⟩
  · rw [exec_markToSpaceEdge, exec_spaceToMarkEdge, exec_breakEnd hp, markToSpaceEdge_marking hp hi,
      spaceToMarkEdge_marking hp hi, breakEnd_marking hi]
    obtain ⟨hcaught, -, hinput, -, hactive⟩ := catchUp_spec hp
    refine ⟨⟨catchUp s, hcaught, hinput.trans hi, by rw [fall_eq hactive]⟩, fun hs => ?_, rfl, rfl⟩
    rw [catchUp_settled hs, fall_eq rfl]
  · obtain ⟨hcaught, hsettled, hinput, hporst, -⟩ := catchUp_spec hp
    have hspacing := hinput.trans hi
    have hup := spaceToMarkEdge_spacing hporst hspacing
    rw [catchUp_settled hsettled] at hup
    simp only [exec_markToSpaceEdge, exec_spaceToMarkEdge, exec_breakEnd hp, markToSpaceEdge_spacing hp hi,
      spaceToMarkEdge_spacing hp hi]
    refine ⟨trivial, ⟨catchUp s, hcaught, hsettled, hporst, hspacing, by rw [hup], fun hx => ?_, fun hx => ?_⟩, fun hs => ?_⟩
    · rw [breakEnd_inBreak hi hx, hup]
    · rw [breakEnd_elsewhere hx]
    · have hsame := catchUp_settled hs
      rw [hsame]
      refine ⟨fun hx => ?_, fun hx => by rw [rise_stuck hx], fun hx => by rw [rise_elsewhere hx]⟩
      rw [breakEnd_inBreak hi (by rw [hsame]; exact hx), hsame, rise_inBreak hx]
      exact ⟨rfl, rfl⟩
  · rw [exec_markToSpaceEdge, exec_spaceToMarkEdge, markToSpaceEdge_held hp, spaceToMarkEdge_held hp]
    exact ⟨rfl, rfl⟩
  · rw [show exec .halfBitSample s = .next (halfBitSample s) from exec_command .halfBit hp]
    refine ⟨fun hi => by rw [halfBitSample_spacing hc hv hi], fun hi hg => ?_, fun g hi hx hg hpass => ?_⟩
    · rw [halfBitSample_glitch hc hv hi (hg.imp_right gapPassed_false)]
    · exact ⟨_, failFrame_spec .gap _, by rw [halfBitSample_late hc hv hi hx (by rw [hg]; exact hpass)]⟩
  · rw [show exec .gapLimit s = .next (gapLimit s) from exec_command .gap hp]
    exact ⟨fun hc => ⟨_, failFrame_spec .gap s, by rw [gapLimit_fails hx hg hn hc]⟩,
      fun hc => by rw [gapLimit_underTest hx hg hn hc]⟩

/-! ## BREAK_DETECTED (R5, R12, R19) -/

/-- The Line Interface with its run marked as having reached 11 bit times, and no character under way (R3, R5). -/
def breakSeen (r : SpacingRun) (l : Lif) : Lif := { l with run := some { r with reached := true }, char := none }

section
variable {r : SpacingRun} {s : State} (hr : s.lif.run = some r) (hn : r.reached = false)
include hr hn

theorem breakDetected_opensFrame (hx : s.lif.rx = .hunt ∨ s.lif.rx = .assembling) :
    breakDetected s = openFrame (s.setLif (breakSeen r s.lif)) := by
  rcases hx with hx | hx <;> simp [breakDetected, breakSeen, hr, hn, hx]

theorem breakDetected_opening (hx : s.lif.rx = .echo) (ht : s.lif.tx = .opening) :
    breakDetected s = s.setLif { breakSeen r s.lif with sending := { s.lif.sending with echoBreak := true } } := by
  simp [breakDetected, breakSeen, hr, hn, hx, ht]

theorem breakDetected_characters (hx : s.lif.rx = .echo) (ht : s.lif.tx = .characters) :
    breakDetected s = collide (s.setLif (breakSeen r s.lif)) := by
  simp [breakDetected, breakSeen, hr, hn, hx, ht]

theorem breakDetected_cutting (hx : s.lif.rx = .echo) (ht : s.lif.tx = .cutting) :
    breakDetected s = s.setLif (breakSeen r s.lif) := by
  simp [breakDetected, breakSeen, hr, hn, hx, ht]

theorem breakDetected_nothing (hx : s.lif.rx = .stuck ∨ s.lif.rx = .inBreak) : breakDetected s = s := by
  rcases hx with hx | hx <;> simp [breakDetected, hr, hn, hx]

end

/-- A break outside ECHO opens a frame: IN_BREAK with count 0 and the frame-start report, after BREAK for a frame being assembled (R5). -/
theorem openFrame_eq (s : State) :
    openFrame s = s.setLif { s.lif with
      rx := .inBreak, gap := none, char := none
      frame := { s.lif.frame with count := 0, check := 0xFFFF }
      reports := s.lif.reports
        ++ (if s.lif.rx = .assembling then [.badFrame .brk, .frameStart] else [.frameStart]) } := by
  by_cases hx : s.lif.rx = .assembling <;> simp [openFrame, Lif.give, checkInit, hx]

/-- Settles O49, by the receive side's state. -/
theorem breakDetectionByReceiveState : Obligations.BreakDetectionByReceiveState := by
  intro r s hp hr hn l
  rw [show exec .breakDetected s = .next (breakDetected s) from exec_command .brk hp]
  refine ⟨fun hx => ?_, fun hx ht => by rw [breakDetected_opening hr hn hx ht]; rfl, fun hx ht => ?_,
    fun hx ht => by rw [breakDetected_cutting hr hn hx ht]; rfl, fun hx => by rw [breakDetected_nothing hr hn hx]⟩
  · rw [breakDetected_opensFrame hr hn hx, openFrame_eq]
    rfl
  · exact ⟨_, collide_spec (s := s.setLif l) (.inr ht), by rw [breakDetected_characters hr hn hx ht]; rfl⟩

/-! ## CHARACTER_TAKEN (R3, R12, R14 to R17) -/

theorem whole_iff (c : RxChar) : c.whole = true ↔ (8 + c.stops) * c.bit + c.bit / 2 ≤ c.elapsed := by
  simp only [RxChar.whole, decide_eq_true_eq]
  rfl

theorem not_whole_iff (c : RxChar) : ¬ c.whole = true ↔ c.elapsed < (8 + c.stops) * c.bit + c.bit / 2 := by
  rw [whole_iff, not_le]

section
variable {c : RxChar} {s : State} (hc : s.lif.char = some c) (hv : c.valid = true) (hb : c.badStop = false)
  (hw : s.lif.input = true ∨ c.whole = true) (b : Byte)
include hc hv hb hw

theorem characterTaken_assembling (hx : s.lif.rx = .assembling) :
    characterTaken b s = assemble b (c.bit / 2) (s.setLif { s.lif with char := none }) := by
  simp [characterTaken, hc, hv, hb, hw.symm, hx]

theorem characterTaken_echo (hx : s.lif.rx = .echo) (hf : c.fresh = true) :
    characterTaken b s = s.setLif { s.lif with
      char := none, sending := { s.lif.sending with echo := some (.good b) } } := by
  simp [characterTaken, hc, hv, hb, hw.symm, hx, hf]

theorem characterTaken_stale (hx : s.lif.rx = .echo) (hf : c.fresh = false) :
    characterTaken b s = s.setLif { s.lif with char := none } := by
  simp [characterTaken, hc, hv, hb, hw.symm, hx, hf]

theorem characterTaken_discards (hx : s.lif.rx = .hunt ∨ s.lif.rx = .stuck ∨ s.lif.rx = .inBreak) :
    characterTaken b s = s.setLif { s.lif with char := none } := by
  rcases hx with hx | hx | hx <;> simp [characterTaken, hc, hv, hb, hw.symm, hx]

end

section
variable (b : Byte) (half : Nat) (s : State)

theorem assemble_tooLong (h2 : s.lif.frame.count = 2) (hb : 64 < b.toNat) :
    assemble b half s = failFrame .length (s.setLif { s.lif with frame := storeCharacter b s.lif.frame }) :=
  if_pos ⟨h2, hb⟩

variable (h3 : 3 ≤ s.lif.frame.count) (hl : s.lif.frame.count = s.lif.frame.length.toNat + 4)

include h3 hl in
theorem assemble_complete (hz : (storeCharacter b s.lif.frame).check = 0) :
    assemble b half s = s.setLif { s.lif with
      frame := storeCharacter b s.lif.frame, rx := .hunt, gap := none
      reports := s.lif.reports ++ [.frameComplete (frameInfo (storeCharacter b s.lif.frame))] } := by
  have h2 : s.lif.frame.count ≠ 2 := by omega
  simp only [assemble, h2, false_and, if_false, hz, if_true]
  rw [if_pos ⟨h3, hl⟩]
  rfl

include h3 hl in
theorem assemble_badCheck (hz : (storeCharacter b s.lif.frame).check ≠ 0) :
    assemble b half s = failFrame .check (s.setLif { s.lif with frame := storeCharacter b s.lif.frame }) := by
  have h2 : s.lif.frame.count ≠ 2 := by omega
  simp only [assemble, h2, false_and, if_false, hz]
  rw [if_pos ⟨h3, hl⟩]

theorem assemble_goesOn (h : s.lif.frame.count < 2 ∨ s.lif.frame.count = 2 ∧ b.toNat ≤ 64
      ∨ 3 ≤ s.lif.frame.count ∧ s.lif.frame.count ≠ s.lif.frame.length.toNat + 4) :
    assemble b half s = s.setLif { s.lif with
      frame := storeCharacter b s.lif.frame, gap := some ⟨half + 2 * charClocks s, 0, false⟩ } := by
  have h1 : ¬ (s.lif.frame.count = 2 ∧ Config.maxPayload < b.toNat) := by
    rw [show Config.maxPayload = 64 from rfl]; omega
  have h2 : ¬ (3 ≤ s.lif.frame.count ∧ s.lif.frame.count = s.lif.frame.length.toNat + 4) := by omega
  simp only [assemble]
  rw [if_neg h1, if_neg h2]
  rfl

end

/-- What a complete frame reports of its two check characters (R15). -/
theorem frameInfo_check (f : FrameBuffer) :
    hiByte (frameInfo f).check = f.checkHigh ∧ loByte (frameInfo f).check = f.checkLow :=
  ⟨BitVec.extractLsb'_append_eq_left (a := f.checkHigh) (b := f.checkLow),
    BitVec.extractLsb'_append_eq_right (a := f.checkHigh) (b := f.checkLow)⟩

theorem frameInfo_station (f : FrameBuffer) : (frameInfo f).station.val = f.address.toNat % 32 := by
  simp only [frameInfo, BitVec.toNat_and]
  rw [show (0x1F : Byte).toNat = 2 ^ 5 - 1 from rfl, Nat.and_two_pow_sub_one_eq_mod, Nat.mod_mod]

/-! ## FRAMING_ERROR (R3, R12, R16) -/

/-- The state with a character settled as bad: none is under way, and an input that is spacing rises (R3; log 19). -/
def settledBad (s : State) : State :=
  let t := if s.lif.input then s else rise s
  t.setLif { t.lif with char := none }

section
variable {s : State}

theorem settledBad_stays (hx : s.lif.rx = .hunt ∨ s.lif.rx = .assembling ∨ s.lif.rx = .echo) :
    settledBad s = s.setLif { s.lif with char := none, input := true, run := if s.lif.input then s.lif.run else none } := by
  cases hi : s.lif.input <;> simp [settledBad, hi, rise_elsewhere hx]

theorem settledBad_marking (hi : s.lif.input = true) :
    settledBad s = s.setLif { s.lif with char := none, input := true, run := if s.lif.input then s.lif.run else none } := by
  simp [settledBad, hi]

theorem settledBad_stuck (hi : s.lif.input = false) (hx : s.lif.rx = .stuck) :
    settledBad s = s.setLif { s.lif with
      char := none, input := true, run := none, marking := some ⟨charClocks s, 0⟩ } := by
  simp [settledBad, hi, rise_stuck hx]

theorem settledBad_inBreak (hi : s.lif.input = false) (hx : s.lif.rx = .inBreak) :
    settledBad s = s.setLif { s.lif with
      char := none, input := true, run := none, rx := .assembling, gap := some ⟨2 * charClocks s, 0, false⟩ } := by
  simp [settledBad, hi, rise_inBreak hx]

end

section
variable {c : RxChar} {s : State} (hc : s.lif.char = some c)
include hc

theorem framingError_good (hb : c.badStop = false) (hw : c.whole = true) : framingError s = s := by
  simp [framingError, hc, hb, hw]

variable (hv : c.valid = true) (hb : c.badStop = true ∨ ¬ c.whole = true)
include hv hb

theorem framingError_assembling (hx : s.lif.rx = .assembling) : framingError s = failFrame .framing (settledBad s) := by
  rcases hb with hb | hb <;> simp [framingError, settledBad, hc, hv, hb, hx]

theorem framingError_echo (hx : s.lif.rx = .echo) (hf : c.fresh = true) :
    framingError s = (settledBad s).setLif { (settledBad s).lif with
      sending := { (settledBad s).lif.sending with echo := some .framing } } := by
  rcases hb with hb | hb <;> simp [framingError, settledBad, hc, hv, hb, hx, hf]

theorem framingError_stale (hx : s.lif.rx = .echo) (hf : c.fresh = false) : framingError s = settledBad s := by
  rcases hb with hb | hb <;> simp [framingError, settledBad, hc, hv, hb, hx, hf]

theorem framingError_discards (hx : s.lif.rx = .hunt ∨ s.lif.rx = .stuck ∨ s.lif.rx = .inBreak) :
    framingError s = settledBad s := by
  rcases hx with hx | hx | hx <;> rcases hb with hb | hb <;> simp [framingError, settledBad, hc, hv, hb, hx]

end

/-- Settles O50: CHARACTER_TAKEN and then FRAMING_ERROR, each by the receive side's state. -/
theorem charactersAreTakenByReceiveState : Obligations.CharactersAreTakenByReceiveState := by
  intro c s hp hc hv u back
  rw [show exec .framingError s = .next (framingError s) from exec_command .framing hp, ← whole_iff, ← not_whole_iff]
  have htaken : ∀ b, exec (.characterTaken b) s = .next (characterTaken b s) := fun b => exec_command (.taken b) hp
  simp only [htaken]
  refine ⟨fun b hb hw => ⟨fun hx => ?_, fun hx hf => ?_, fun hx hf => ?_, fun hx => ?_⟩,
    fun hb => ⟨fun hx => ?_, fun hx hf => ?_, fun hx hf => ?_, fun hx => ?_, fun hx hi => ?_, fun hx hi => ?_, fun hx hi => ?_⟩,
    fun hb hw => by rw [framingError_good hc hb hw]⟩
  · rw [characterTaken_assembling hc hv hb hw b hx]
    refine ⟨_, storeCharacter_spec b s.lif.frame, fun h2 hl => ⟨_, failFrame_spec .length _, ?_⟩,
      fun h3 hl => ⟨fun hz => ?_, fun hz => ⟨_, failFrame_spec .check _, ?_⟩⟩, fun hn => ?_⟩
    · rw [assemble_tooLong b _ u h2 hl]; rfl
    · obtain ⟨hhi, hlo⟩ := frameInfo_check (storeCharacter b s.lif.frame)
      refine ⟨_, frameInfo_station _, rfl, rfl, rfl, rfl, rfl, hhi, hlo, ?_⟩
      rw [assemble_complete b _ u h3 hl hz]; rfl
    · rw [assemble_badCheck b _ u h3 hl hz]; rfl
    · rw [assemble_goesOn b _ u hn]; rfl
  · rw [characterTaken_echo hc hv hb hw b hx hf]; rfl
  · rw [characterTaken_stale hc hv hb hw b hx hf]
  · rw [characterTaken_discards hc hv hb hw b hx]
  · exact ⟨_, failFrame_spec .framing back,
      by rw [framingError_assembling hc hv hb hx, settledBad_stays (.inr (.inl hx))]⟩
  · rw [framingError_echo hc hv hb hx hf, settledBad_stays (.inr (.inr hx))]; rfl
  · rw [framingError_stale hc hv hb hx hf, settledBad_stays (.inr (.inr hx))]
  · rw [framingError_discards hc hv hb (.inl hx), settledBad_stays (.inl hx)]
  · rw [framingError_discards hc hv hb (.inr hx), settledBad_marking hi]
  · rw [framingError_discards hc hv hb (.inr (.inl hx)), settledBad_stuck hi hx]
    simp [back, hi]
  · rw [framingError_discards hc hv hb (.inr (.inr hx)), settledBad_inBreak hi hx]
    simp [back, hi]

end Sys2Proof.FieldLine
end

section
/-! The stuck line (R18, R19, R107, R108), the reply timer's expiry (R99) and the guard's run-out (R94, R95, R102, R104). -/

namespace Sys2Proof.FieldLine

open Sys2Proof.Machine

/-! ## The stuck line at the receiver (R18, R19) -/

theorem stuckDetected_parks {s : State} (ht : s.lif.tx = .released) (hr : s.lif.run ≠ none)
    (hx : s.lif.rx = .hunt ∨ s.lif.rx = .inBreak ∨ s.lif.rx = .assembling) :
    stuckDetected s = s.setLif { s.lif with
      rx := .stuck, gap := none, char := none, marking := none, reports := s.lif.reports ++ [.stuck] } :=
  if_pos ⟨ht, Option.isSome_iff_ne_none.2 hr, hx⟩

theorem stuckDetected_sending {s : State} (ht : s.lif.tx ≠ .released) : stuckDetected s = s := if_neg fun h => ht h.1

theorem lineRecovered_hunts {s : State} (hx : s.lif.rx = .stuck) (hm : s.lif.marking ≠ none) :
    lineRecovered s = s.setLif { s.lif with rx := .hunt, marking := none, reports := s.lif.reports ++ [.recovery] } :=
  if_pos ⟨hx, Option.isSome_iff_ne_none.2 hm⟩

/-! ## The stuck line at the engine (R107, R108) -/

/-- The engine has taken the first of the reports given, and the others wait. -/
def reportTaken (rest : List Report) (s : State) : State := s.setLif { s.lif with reports := rest }

theorem exec_stuckReport {s : State} {rest : List Report} (hp : s.porst = false) (hr : s.lif.reports = .stuck :: rest) :
    exec .stuckReport s = .next (takeStuck (reportTaken rest s)) := by
  rw [show exec .stuckReport s = .next (stuckReport s) from internal_spec.1 hp]
  simp [stuckReport, withReport, hr, reportTaken]

theorem exec_recoveryReport {s : State} {rest : List Report} (hp : s.porst = false)
    (hr : s.lif.reports = .recovery :: rest) :
    exec .recoveryReport s = .next (takeRecovery (reportTaken rest s)) := by
  rw [show exec .recoveryReport s = .next (recoveryReport s) from internal_spec.1 hp]
  simp [recoveryReport, withReport, hr, reportTaken]

/-- The stuck event counted and LINE_FAULT latched at all hosts (R107). -/
def stuckCounted (s : State) : State :=
  latchAll .lineFault (s.setStats { s.stats with stuckEvents := bump s.stats.stuckEvents })

section
variable {s : State}

theorem takeStuck_parks (h : s.engine.state = .quiet ∨ s.engine.state = .idle) :
    takeStuck s = enterStuck (stuckCounted s) := by
  rcases h with h | h <;> simp [takeStuck, h, stuckCounted]

theorem takeStuck_sending (h : s.engine.state = .sending) : takeStuck s = stuckCounted s := by
  simp [takeStuck, h, stuckCounted]

theorem takeStuck_endsAttempt (h : s.engine.state = .awaiting ∨ s.engine.state = .receiving) :
    takeStuck s = attemptEnd .lineStuck (stopTimer (enterStuck (stuckCounted s))) := by
  rcases h with h | h <;> simp [takeStuck, h, stuckCounted]

theorem takeRecovery_stuck (h : s.engine.state = .stuck) : takeRecovery s = enterQuiet false s := if_pos h

end

/-- Settles O51: the receiver's two events, then the engine's two reports by its state. -/
theorem stuckLineAndItsRecovery : Obligations.StuckLineAndItsRecovery := by
  refine ⟨fun s hp => ?_, fun rest s hp => ⟨fun hr => ?_, fun hr hst => ?_⟩⟩
  · rw [show exec .stuckDetected s = .next (stuckDetected s) from exec_command .stuck hp,
      show exec .lineRecovered s = .next (lineRecovered s) from exec_command .recovery hp]
    exact ⟨fun ht hr hx => by rw [stuckDetected_parks ht hr hx], fun ht => by rw [stuckDetected_sending ht],
      fun hx hm => by rw [lineRecovered_hunts hx hm]⟩
  · rw [exec_stuckReport hp hr]
    refine ⟨fun hst => ?_, fun hst => ?_, fun i hst hi => ?_⟩
    · rw [takeStuck_parks (s := reportTaken rest s) hst]; rfl
    · rw [takeStuck_sending (s := reportTaken rest s) hst]; rfl
    · rw [takeStuck_endsAttempt (s := reportTaken rest s) hst]
      exact ⟨_, attemptEnd_spec hi, rfl⟩
  · rw [exec_recoveryReport hp hr, takeRecovery_stuck (s := reportTaken rest s) hst]
    exact ⟨_, enterQuiet_spec false _, rfl⟩

/-! ## The reply timer's expiry (R99) -/

theorem tickTimer_expires {s : State} (hst : s.engine.state = .awaiting) (hr : s.engine.timer.running = true)
    (hw : s.engine.timer.tickWaiting = true) : tickTimer s = noReply s := by
  simp [tickTimer, timerRuns, hst, hr, hw]

theorem replyTimerExpiry_waiting {s : State} (hw : s.engine.timer.tickWaiting = true) : replyTimerExpiry s = tickTimer s :=
  if_pos hw

/-! ## The guard's run-out (R94, R95, R102, R104) -/

theorem guardRunOut_due {s : State} (hst : s.engine.state = .quiet) (hf : s.engine.frameInProgress = false)
    (hg : s.engine.guard.running = true ∨ s.engine.guard.left = 0) : guardRunOut s = runOut s := by
  simp [guardRunOut, hst, hf, hg]

/-- The guard counter stopped at 0. -/
def guardAtZero (s : State) : State :=
  s.setEngine { s.engine with guard := { s.engine.guard with left := 0, running := false } }

section
variable {s : State}

theorem runOut_waits (h : s.engine.copyOutstanding = true ∨ ¬ allTaken s) : runOut s = guardAtZero s := by
  refine if_pos ?_
  simpa [← endsTaken_iff] using h

variable (hc : s.engine.copyOutstanding = false) (ht : allTaken s)
include hc ht

theorem runOut_idle (hr : s.engine.retryDue = false) : runOut s = enterIdle (guardAtZero s) := by
  simp [runOut, guardAtZero, hc, (endsTaken_iff s).2 ht, hr]

theorem runOut_retry {i : SlotNo} (hr : s.engine.retryDue = true) (hi : s.engine.current = some i) :
    runOut s = retryOrEnd i (guardAtZero s) := by
  simp [runOut, guardAtZero, hc, (endsTaken_iff s).2 ht, hr, hi]

end

/-- The engine with no retry due. -/
def retryTaken (s : State) : State := s.setEngine { s.engine with retryDue := false }

theorem retryOrEnd_begins {i : SlotNo} {s : State} (hx : (s.slot i).cancelRequested = false) :
    retryOrEnd i s = beginAttempt i false (retryTaken s) := by
  simp [retryOrEnd, retryTaken, hx]

theorem retryOrEnd_ends {i : SlotNo} {r : AttemptResult} {s : State} (hx : (s.slot i).cancelRequested = true)
    (hr : (s.slot i).lastResult = some r) : retryOrEnd i s = enterIdle (exchangeEnd i r (retryTaken s)) := by
  simp [retryOrEnd, retryTaken, hx, hr]

/-- Settles O42: the timer's expiry, then the run-out that waits, leads to IDLE, begins the next attempt or ends the exchange. -/
theorem timerExpiryAndGuardRunOut : Obligations.TimerExpiryAndGuardRunOut := by
  refine ⟨fun i s hp hst hr hw hi => ?_, fun s hp hst hf hg => ?_⟩
  · rw [show exec .replyTimerExpiry s = .next (replyTimerExpiry s) from internal_spec.1 hp,
      replyTimerExpiry_waiting hw, tickTimer_expires hst hr hw]
    exact ⟨_, _, enterQuiet_spec _ _, attemptEnd_spec hi, rfl⟩
  · rw [show exec .guardRunOut s = .next (guardRunOut s) from internal_spec.1 hp, guardRunOut_due hst hf hg]
    refine ⟨fun h => by rw [runOut_waits h]; rfl, fun hc ht => ⟨fun hd => ?_, fun i r hd hi hl => ⟨fun hx => ?_, fun hx => ?_⟩⟩⟩
    · exact ⟨_, enterIdle_spec (guardAtZero s), by rw [runOut_idle hc ht hd]⟩
    · rw [runOut_retry hc ht hd hi, retryOrEnd_begins (s := guardAtZero s) hx]
      exact ⟨_, beginAttempt_spec i _ false _ rfl, rfl⟩
    · rw [runOut_retry hc ht hd hi, retryOrEnd_ends (s := guardAtZero s) hx hl]
      exact ⟨_, _, exchangeEnd_spec i r _, enterIdle_spec _, rfl⟩

end Sys2Proof.FieldLine
end

section
/-! A step with no command waiting (log 2): the event that is due, an access that waits at a port, or one clock period, and what the clock period counts. -/

namespace Sys2Proof.FieldLine

open Sys2Proof.Machine

/-! ## Every command goes on (log 31) -/

/-- No command stops the part: each arm of the dispatch answers a next state. -/
theorem exec_goesOn (c : Instr) (s : State) : ∃ t, exec c s = .next t := by
  cases c <;> exact ⟨_, rfl⟩

/-! ## An access that waits at a port (R169, R176) -/

/-- The first of a rising list for which a search has an answer. -/
theorem findSome_lowest {n : Nat} {α : Type} {f : Fin n → Option α} {i : Fin n} {x : α} (hi : f i = some x)
    (hlow : ∀ j, j < i → f j = none) : ∀ l : List (Fin n), l.Pairwise (· < ·) → i ∈ l → l.findSome? f = some x
  | [], _, hmem => by simp at hmem
  | a :: l, hl, hmem => by
    rw [List.pairwise_cons] at hl
    rw [List.findSome?_cons]
    rcases List.mem_cons.1 hmem with rfl | hmem
    · rw [hi]
    · rw [hlow a (hl.1 i hmem)]
      exact findSome_lowest hi hlow l hl.2 hmem

theorem portFree_iff (h : HostId) (s : State) :
    portFree h s = true ↔
      s.porst = false ∧ (s.port h).phase = .serving ∧ (s.port h).claim = none ∧ ¬ AccessInService h s := by
  rw [← portInService_iff]
  simp [portFree, and_assoc]

theorem dueAccess_lowest {s : State} {h : HostId} {c : Instr} {rest : List Instr} (hf : portFree h s = true)
    (hw : (s.port h).waiting = c :: rest) (hlow : ∀ k, k < h → ¬ portFree k s = true ∨ (s.port k).waiting = []) :
    dueAccess s = some (h, c) := by
  refine findSome_lowest (by simp [hf, hw]) (fun k hk => ?_) _ (List.pairwise_lt_finRange 4) (List.mem_finRange h)
  rcases hlow k hk with hk | hk <;> simp [hk]

theorem dueAccess_none {s : State} (hn : ∀ h, ¬ portFree h s = true ∨ (s.port h).waiting = []) : dueAccess s = none := by
  refine List.findSome?_eq_none_iff.2 fun h _ => ?_
  rcases hn h with hh | hh <;> simp [hh]

/-! ## The step on an empty queue -/

section
variable {s : State} (he : s.pending = [])
include he

theorem step_empty : step s = idleStep s := by simp [step, he]

theorem step_due {c : Instr} (hd : dueEvent s = some c) : step s = exec c s := by
  rw [step_empty he, idleStep, hd]

variable (hd : dueEvent s = none)
include hd

theorem step_access {h : HostId} {c : Instr} {rest : List Instr} (ha : dueAccess s = some (h, c))
    (hw : (s.port h).waiting = c :: rest) :
    ∃ t, exec c (s.setPort h { s.port h with waiting := [] }) = .next t
      ∧ step s = .next (t.setPort h { t.port h with waiting := rest }) := by
  obtain ⟨t, ht⟩ := exec_goesOn c (setWaiting h [] s)
  refine ⟨t, ht, ?_⟩
  rw [step_empty he, idleStep, hd]
  simp only [ha, serveWaiting, ht, hw]
  rfl

theorem step_clock (ha : dueAccess s = none) : step s = .next (clockPeriod s) := by
  rw [step_empty he, idleStep, hd]
  simp only [ha]

end

/-! ## What can be due -/

/-- A command that waits for no time of the line, of the prescaler, of the guard or of the arbiter. -/
def Untimed (c : Instr) : Prop := (∀ l, TimeHasRun l c) ∧ c ≠ .tick ∧ c ≠ .guardRunOut ∧ c ≠ .arbiterServe

theorem reportCommand_untimed (r : Report) : Untimed (reportCommand r) := by
  cases r <;> exact ⟨fun _ => trivial, nofun, nofun, nofun⟩

theorem partCommand_untimed (h : HostId) (p : ReleasePart) : Untimed (partCommand h p) := by
  cases p <;> exact ⟨fun _ => trivial, nofun, nofun, nofun⟩

theorem dueHandOver_untimed {s : State} {c : Instr} (h : dueHandOver s = some c) : Untimed c := by
  unfold dueHandOver at h
  cases hr : s.lif.reports with
  | cons r rest =>
    rw [hr] at h
    obtain rfl := Option.some.inj h
    exact reportCommand_untimed r
  | nil =>
    rw [hr] at h
    simp only [dueIf] at h
    split_ifs at h <;> obtain rfl := Option.some.inj h <;> exact ⟨fun _ => trivial, nofun, nofun, nofun⟩

theorem duePart_untimed {s : State} {h : HostId} {c : Instr} (hd : duePart s h = some c) : Untimed c := by
  unfold duePart at hd
  split at hd
  · obtain rfl := Option.some.inj hd
    exact partCommand_untimed h _
  · cases hd

theorem dueTimer_untimed {s : State} {c : Instr} (h : dueTimer s = some c) : Untimed c := by
  unfold dueTimer at h
  split_ifs at h
  · obtain rfl := Option.some.inj h; exact ⟨fun _ => trivial, nofun, nofun, nofun⟩
  · split at h
    · obtain rfl := Option.some.inj h; exact ⟨fun _ => trivial, nofun, nofun, nofun⟩
    · obtain ⟨e, -, rfl⟩ := Option.map_eq_some_iff.1 h; exact ⟨fun _ => trivial, nofun, nofun, nofun⟩

/-- The event that is due comes from one of eight sources (log 2). -/
theorem dueEvent_cases {s : State} {c : Instr} (h : dueEvent s = some c) :
    s.porst = false
    ∧ (Untimed c ∨ (claimWaits s = true ∧ c = .arbiterServe) ∨ (tickDue s = true ∧ c = .tick)
      ∨ (guardDue s = true ∧ c = .guardRunOut) ∨ (∃ e, dueReceive s.lif = some e ∧ c = e.command)
      ∨ dueTransmit s.lif = some c) := by
  unfold dueEvent at h
  split_ifs at h with hp
  refine ⟨by simpa using hp, ?_⟩
  simp only [Option.or_eq_some_iff, dueIf_some, Option.map_eq_some_iff] at h
  rcases h with (((((((h | ⟨-, h⟩) | ⟨-, h⟩) | ⟨-, h⟩) | ⟨-, h⟩) | ⟨-, h⟩) | ⟨-, h⟩) | ⟨-, h⟩)
  · exact .inl (dueHandOver_untimed h)
  · obtain ⟨k, -, hk⟩ := List.exists_of_findSome?_eq_some h
    exact .inl (duePart_untimed hk)
  · exact .inr (.inl ⟨h.1, h.2.symm⟩)
  · exact .inl (dueTimer_untimed h)
  · exact .inr (.inr (.inl ⟨h.1, h.2.symm⟩))
  · exact .inr (.inr (.inr (.inl ⟨h.1, h.2.symm⟩)))
  · obtain ⟨e, he, hc⟩ := h
    exact .inr (.inr (.inr (.inr (.inl ⟨e, he, hc.symm⟩))))
  · exact .inr (.inr (.inr (.inr (.inr h))))

/-- With nothing due, none of the sources that count a time has anything due. -/
theorem dueEvent_none {s : State} (hp : s.porst = false) (h : dueEvent s = none) :
    tickDue s = false ∧ guardDue s = false ∧ dueReceive s.lif = none ∧ dueTransmit s.lif = none := by
  simp only [dueEvent, hp, Bool.false_eq_true, if_false, Option.or_eq_none_iff, dueIf_none, Option.map_eq_none_iff] at h
  obtain ⟨⟨⟨⟨-, htick⟩, hguard⟩, hreceive⟩, htransmit⟩ := h
  exact ⟨htick, hguard, hreceive, htransmit⟩

/-! ## The times that have run when an event of the line is due -/

theorem dueCharacter_time {l : Lif} {e : RxEvent} (h : dueCharacter l = some e) : TimeHasRun l e.command := by
  unfold dueCharacter at h
  cases hc : l.char with
  | none => simp [hc] at h
  | some c =>
    rw [hc] at h
    simp only [] at h
    split_ifs at h with hv hb <;> obtain ⟨hd, rfl⟩ := (dueIf_some _ _ _).1 h
    · exact ⟨c, hc, by simpa using hv, of_decide_eq_true hd⟩
    · exact ⟨c, hc, by simpa using hv, hb, hd⟩
    · exact ⟨c, hc, by simpa using hv, by simpa using hb, rfl, of_decide_eq_true hd⟩

theorem dueRun_time {l : Lif} {e : RxEvent} (h : dueRun l = some e) : TimeHasRun l e.command := by
  unfold dueRun at h
  cases hr : l.run with
  | none => simp [hr] at h
  | some r =>
    rw [hr] at h
    simp only [] at h
    split_ifs at h with hb
    · obtain rfl := Option.some.inj h
      simp only [Bool.and_eq_true, Bool.not_eq_true', decide_eq_true_eq] at hb
      obtain ⟨⟨hn, ht⟩, hs, hi⟩ := hb
      exact ⟨⟨r, hr, hn, ht⟩, hs, hi⟩
    · obtain ⟨hd, rfl⟩ := (dueIf_some _ _ _).1 h
      simp only [Bool.and_eq_true, decide_eq_true_eq] at hd
      obtain ⟨⟨ht, hx⟩, hl⟩ := hd
      exact ⟨⟨r, hr, hl⟩, ht, hx⟩

theorem dueGap_time {l : Lif} {e : RxEvent} (h : dueGap l = some e) : TimeHasRun l e.command := by
  unfold dueGap at h
  cases hg : l.gap with
  | none => simp [hg] at h
  | some g =>
    rw [hg] at h
    obtain ⟨hd, rfl⟩ := (dueIf_some _ _ _).1 h
    simp only [Bool.and_eq_true, Bool.not_eq_true', decide_eq_true_eq] at hd
    obtain ⟨⟨hx, hn⟩, hl⟩ := hd
    exact ⟨hx, g, hg, hn, hl⟩

theorem dueRecovery_time {l : Lif} {e : RxEvent} (h : dueRecovery l = some e) : TimeHasRun l e.command := by
  unfold dueRecovery at h
  cases hm : l.marking with
  | none => simp [hm] at h
  | some m =>
    rw [hm] at h
    obtain ⟨hd, rfl⟩ := (dueIf_some _ _ _).1 h
    simp only [Bool.and_eq_true, decide_eq_true_eq] at hd
    exact ⟨hd.1, m, hm, hd.2⟩

theorem dueReceive_time {l : Lif} {e : RxEvent} (h : dueReceive l = some e) : TimeHasRun l e.command := by
  simp only [dueReceive, Option.or_eq_some_iff] at h
  rcases h with h | ⟨-, h | ⟨-, h | ⟨-, h⟩⟩⟩
  · exact dueCharacter_time h
  · exact dueRun_time h
  · exact dueGap_time h
  · exact dueRecovery_time h

theorem receiveCommand_ne (e : RxEvent) : e.command ≠ .tick ∧ e.command ≠ .guardRunOut ∧ e.command ≠ .arbiterServe := by
  cases e <;> exact ⟨nofun, nofun, nofun⟩

/-- What can be due at the transmit side, by its state, with the time that has run. -/
theorem dueTransmit_cases {l : Lif} {c : Instr} (h : dueTransmit l = some c) :
    (l.tx = .opening ∧ ((c = .echoCollision ∧ ((l.sending.echoBreak = false ∧ 16 * l.sending.bit ≤ l.sending.elapsed)
          ∨ l.sending.markFailed = true))
        ∨ (18 * l.sending.bit ≤ l.sending.elapsed ∧ (c = .echoCollision ∨ c = .openingBreakEnd))))
    ∨ (l.tx = .characters ∧ l.sending.charBits * l.sending.bit ≤ l.sending.elapsed
        ∧ (c = .characterSent ∨ c = .frameSent))
    ∨ (l.tx = .cutting ∧ l.sending.lead = 0 ∧ 18 * l.sending.bit ≤ l.sending.elapsed ∧ c = .cutBreakEnd) := by
  unfold dueTransmit at h
  cases ht : l.tx <;> rw [ht] at h <;> simp only [] at h
  case released => cases h
  case opening =>
    refine .inl ⟨rfl, ?_⟩
    split_ifs at h with hb hf
    · obtain rfl := Option.some.inj h
      simp only [Bool.or_eq_true, Bool.and_eq_true, Bool.not_eq_true', decide_eq_true_eq] at hb
      exact .inl ⟨rfl, hb⟩
    · obtain ⟨hd, rfl⟩ := (dueIf_some _ _ _).1 h
      exact .inr ⟨of_decide_eq_true hd, .inl rfl⟩
    · obtain ⟨hd, rfl⟩ := (dueIf_some _ _ _).1 h
      exact .inr ⟨of_decide_eq_true hd, .inr rfl⟩
  case characters =>
    refine .inr (.inl ⟨rfl, ?_⟩)
    split_ifs at h with ht hi
    · obtain ⟨-, rfl⟩ := (dueIf_some _ _ _).1 h
      exact ⟨not_lt.1 ht, .inl rfl⟩
    · obtain ⟨-, rfl⟩ := (dueIf_some _ _ _).1 h
      exact ⟨not_lt.1 ht, .inr rfl⟩
  case cutting =>
    obtain ⟨hd, rfl⟩ := (dueIf_some _ _ _).1 h
    simp only [Bool.and_eq_true, decide_eq_true_eq] at hd
    exact .inr (.inr ⟨rfl, hd.1, hd.2, rfl⟩)

theorem dueTransmit_time {l : Lif} {c : Instr} (h : dueTransmit l = some c) :
    TimeHasRun l c ∧ c ≠ .tick ∧ c ≠ .guardRunOut ∧ c ≠ .arbiterServe := by
  rcases dueTransmit_cases h with ⟨ht, ⟨rfl, hb | hf⟩ | ⟨h18, rfl | rfl⟩⟩ | ⟨ht, hl, rfl | rfl⟩ | ⟨ht, hl, h18, rfl⟩
  · exact ⟨⟨ht, .inl hb⟩, nofun, nofun, nofun⟩
  · exact ⟨⟨ht, .inr (.inl hf)⟩, nofun, nofun, nofun⟩
  · exact ⟨⟨ht, .inr (.inr h18)⟩, nofun, nofun, nofun⟩
  · exact ⟨⟨ht, h18⟩, nofun, nofun, nofun⟩
  · exact ⟨⟨ht, hl⟩, nofun, nofun, nofun⟩
  · exact ⟨⟨ht, hl⟩, nofun, nofun, nofun⟩
  · exact ⟨⟨ht, hl, h18⟩, nofun, nofun, nofun⟩

/-! ## The times of the prescaler, the guard and the arbiter -/

theorem tickDue_iff (s : State) :
    tickDue s = true ↔ (if s.prescaler.phase.val % 2 = 0 then 14746 else 14745) ≤ s.prescaler.count := by
  simp only [tickDue, decide_eq_true_eq]
  rfl

theorem guardDue_iff (s : State) :
    guardDue s = true ↔ s.engine.state = .quiet ∧ s.engine.frameInProgress = false ∧ s.engine.guard.left = 0
      ∧ s.engine.copyOutstanding = false ∧ allTaken s := by
  simp [guardDue, endsTaken_iff, and_assoc]

/-- A claim waits for a free memory only as R51 has it. -/
theorem claimWaits_time {s : State} (h : claimWaits s = true) :
    (s.engineClaim ≠ none ∧ ¬ EngineKeptOut s)
    ∨ (s.engineClaim = none ∧ s.service = none ∧ ∃ h, (s.port h).claim ≠ none) := by
  simp only [claimWaits, Bool.and_eq_true, Bool.or_eq_true] at h
  obtain ⟨hclaim, hfree⟩ := h
  refine ((memoryFree_iff s).1 hfree).imp_right fun ⟨hn, hs⟩ => ⟨hn, hs, ?_⟩
  obtain ⟨k, hk⟩ := Option.isSome_iff_exists.1 (hclaim.resolve_left (by simp [hn]))
  have hsome := List.find?_some hk
  exact ⟨k, Option.isSome_iff_ne_none.1 hsome⟩

/-- Settles O2: the step by what is due, then the time of what is due by its source. -/
theorem idleStepIsTheDueEventOrAClockPeriod : Obligations.IdleStepIsTheDueEventOrAClockPeriod := by
  refine ⟨fun s he => ?_, fun s c hd => ?_⟩
  · simp only [← portFree_iff]
    exact ⟨fun c hd => step_due he hd, fun h c rest hd hf hw hlow => step_access he hd (dueAccess_lowest hf hw hlow) hw,
      fun hd hn => step_clock he hd (dueAccess_none hn)⟩
  · obtain ⟨hp, hc⟩ := dueEvent_cases hd
    rw [← tickDue_iff]
    refine ⟨hp, ?_⟩
    rcases hc with ⟨ht, h1, h2, h3⟩ | ⟨hw, rfl⟩ | ⟨hk, rfl⟩ | ⟨hg, rfl⟩ | ⟨e, he, rfl⟩ | ht
    · exact ⟨ht s.lif, fun h => absurd h h1, fun h => absurd h h2, fun h => absurd h h3⟩
    · exact ⟨trivial, nofun, nofun, fun _ => claimWaits_time hw⟩
    · exact ⟨trivial, fun _ => hk, nofun, nofun⟩
    · obtain ⟨hq, -, hl, -⟩ := (guardDue_iff s).1 hg
      exact ⟨trivial, nofun, fun _ => ⟨hq, hl⟩, nofun⟩
    · obtain ⟨h1, h2, h3⟩ := receiveCommand_ne e
      exact ⟨dueReceive_time he, fun h => absurd h h1, fun h => absurd h h2, fun h => absurd h h3⟩
    · obtain ⟨ht, h1, h2, h3⟩ := dueTransmit_time ht
      exact ⟨ht, fun h => absurd h h1, fun h => absurd h h2, fun h => absurd h h3⟩

/-! ## With nothing due no time of the transmitter has run out -/

/-- Only a payload character waits for its value, and only for its byte (R11). -/
theorem characterValue_none {d : Sending} {k : Nat} (h : characterValue d (k + 1) = none) :
    d.nextPayload = none ∧ 2 ≤ k ∧ k < d.order.length + 2 := by
  unfold characterValue at h
  split_ifs at h with h1 h2 h3
  exact ⟨Option.map_eq_none_iff.1 h, by omega, by omega⟩

theorem endsNow_false {d : Sending} (h : endsNow d = false) :
    d.echo = some (.good d.value) ∧ d.nextPayload = none ∧ 2 ≤ d.index ∧ d.index < d.order.length + 2 := by
  simp only [endsNow, Bool.or_eq_false_iff, Bool.not_eq_false'] at h
  obtain ⟨⟨he, -⟩, hv⟩ := h
  exact ⟨(echoRight_iff d).1 he, characterValue_none (by simpa using hv)⟩

theorem dueTransmit_none {l : Lif} (h : dueTransmit l = none) : TransmitSettled l := by
  unfold dueTransmit at h
  refine ⟨fun ht => ?_, fun ht => ?_, fun ht hl => ?_⟩ <;> rw [ht] at h <;> simp only [] at h
  · split_ifs at h with hb hf
    all_goals
      simp only [Bool.or_eq_true, Bool.and_eq_true, Bool.not_eq_true', decide_eq_true_eq, not_or, not_and, not_le] at hb
      exact ⟨not_le.1 (of_decide_eq_false ((dueIf_none _ _).1 h)), by simpa using hb.2, hb.1⟩
  · have hn := (dueIf_none _ _).1 h
    simp only [Bool.and_eq_false_iff, decide_eq_false_iff_not] at hn
    exact hn.imp Nat.pos_of_ne_zero not_le.1
  · rw [if_neg (not_lt.2 hl)] at h
    refine ⟨fun hi => ?_, fun hi => ?_⟩
    · rw [if_pos (by exact hi)] at h
      exact endsNow_false ((dueIf_none _ _).1 h)
    · rw [if_neg (by rw [hi]; exact lt_irrefl _), dueIf_none] at h
      have hwhole := (frameWhole_iff l.sending).2 (.inl hi)
      simp [h] at hwhole

/-! ## One clock period, block by block -/

section
variable {s : State} (hp : s.porst = false)
include hp

theorem clockPeriod_prescaler (ht : tickDue s = false) :
    (clockPeriod s).prescaler = { s.prescaler with count := s.prescaler.count + 1 } := by
  have hlt : s.prescaler.count < tickClocks s.prescaler.phase := not_le.1 (of_decide_eq_false ht)
  simp [clockPeriod, hp, Prescaler.clocked, hlt]

theorem clockPeriod_engine_stays
    (h : s.engine.state ≠ .quiet ∨ s.engine.guard.running = false ∨ s.engine.guard.left = 0) :
    (clockPeriod s).engine = s.engine := by
  rcases h with h | h | h <;> simp [clockPeriod, hp, Guard.clocked, h]

theorem clockPeriod_guard_counts (hq : s.engine.state = .quiet) (hr : s.engine.guard.running = true)
    (hl : 0 < s.engine.guard.left) :
    (clockPeriod s).engine = { s.engine with
      guard := if s.engine.guard.clocks + 1 < s.engine.guard.perChar then
          { s.engine.guard with clocks := s.engine.guard.clocks + 1 }
        else { s.engine.guard with left := s.engine.guard.left - 1, clocks := 0 } } := by
  have hguard : s.engine.guard.clocked =
      if s.engine.guard.clocks + 1 < s.engine.guard.perChar then
        { s.engine.guard with clocks := s.engine.guard.clocks + 1 }
      else { s.engine.guard with left := s.engine.guard.left - 1, clocks := 0 } := by
    rw [Guard.clocked, if_pos ⟨hr, hl⟩]
    by_cases hc : s.engine.guard.clocks + 1 < s.engine.guard.perChar
    · rw [if_neg (not_le.2 hc), if_pos hc]
    · rw [if_pos (not_lt.1 hc), if_neg hc]
  rw [← hguard]
  simp [clockPeriod, hp, hq]

theorem clockPeriod_lif : LineClocked (2 * charClocks s) s.lif (clockPeriod s).lif := by
  have h : (clockPeriod s).lif = s.lif.clocked (2 * charClocks s) := by simp [clockPeriod, hp, Config.gapCharacters]
  rw [h]
  exact lifClocked_spec _ _

theorem clockPeriod_service : (clockPeriod s).service = s.service.bind Service.clocked := by simp [clockPeriod, hp]

theorem clockPeriod_frame :
    { clockPeriod s with prescaler := s.prescaler, engine := s.engine, lif := s.lif, service := s.service } = s := by
  rw [clockPeriod, if_neg (by simp [hp])]

end

/-! ## Bit and character times (R1) -/

theorem rateClocks_table : ∀ code clocks,
    (code, clocks) ∈ [(0, 1536), (1, 768), (2, 384), (3, 256), (4, 128), (5, 64), (6, 32), (7, 16)] →
      rateClocks code = clocks := by
  have h : ∀ p ∈ [(0, 1536), (1, 768), (2, 384), (3, 256), (4, 128), (5, 64), (6, 32), (7, 16)],
      rateClocks p.1 = p.2 := by decide
  exact fun code clocks hmem => h (code, clocks) hmem

/-- Settles O53: the table of R1, what has not run with nothing due, and the clock period block by block. -/
theorem idleClockPeriodCounts : Obligations.IdleClockPeriodCounts := by
  refine ⟨fun s => ⟨fun code clocks hmem hs => ?_, fun h1 => ?_, fun h2 => ?_, rfl⟩, fun s hp he hd => ?_⟩
  · rw [bitClocks, hs, rateClocks_table code clocks hmem]
  · rw [charBits, h1]; rfl
  · rw [charBits, h2]; rfl
  · obtain ⟨htick, hguard, hreceive, htransmit⟩ := dueEvent_none hp hd
    refine ⟨⟨(dueReceive_none _).1 hreceive, dueTransmit_none htransmit, fun hq hf hc ht => ?_⟩, fun ha => ?_⟩
    · refine Nat.pos_of_ne_zero fun hl => ?_
      have := (guardDue_iff s).2 ⟨hq, hf, hl, hc, ht⟩
      simp [hguard] at this
    · have hnone : dueAccess s = none := by
        refine dueAccess_none fun h => or_iff_not_imp_left.2 fun hf => ?_
        obtain ⟨-, h1, h2, h3⟩ := (portFree_iff h s).1 (not_not.1 hf)
        exact ha h h1 h2 h3
      refine ⟨_, step_clock he hd hnone, ?_, clockPeriod_prescaler hp htick, clockPeriod_engine_stays hp,
        clockPeriod_guard_counts hp, clockPeriod_lif hp, fun hs => ?_, fun v hs => ?_, clockPeriod_frame hp⟩
      · rw [← not_le, ← tickDue_iff, htick]
        exact Bool.false_ne_true
      · rw [clockPeriod_service hp, hs]; rfl
      · rw [clockPeriod_service hp, hs]; rfl

end Sys2Proof.FieldLine
end

section
/-! Power-on (R5, R177): the values that State.reset gives each block, and what POWER_ON_RESET and its release do. -/

namespace Sys2Proof.FieldLine

open Sys2Proof.Machine

/-! ## The tables at power-on -/

@[simp] theorem reset_port (h : HostId) : State.reset.port h = freshPort := tget_replicate _ h
@[simp] theorem reset_slot (i : SlotNo) : State.reset.slot i = freeExchange := tget_replicate _ i
@[simp] theorem reset_station (n : StationNo) : State.reset.station n = freshStation := tget_replicate _ n
@[simp] theorem reset_entry (e : EntryNo) : State.reset.entry e = unusedEntry := tget_replicate _ e
@[simp] theorem reset_holder (b : BufNo) : State.reset.holder b = .free := tget_replicate _ b
@[simp] theorem reset_attachment (b : BufNo) : State.reset.attachment b = none := tget_replicate _ b
@[simp] theorem reset_notice (h : HostId) : State.reset.notice h = ⟨0x00, 0xFF⟩ := tget_replicate _ h
@[simp] theorem reset_queue (h : HostId) : State.reset.queue h = [] := tget_replicate _ h

/-- No entry of a table of like entries that fail a test is counted. -/
theorem tcount_replicate {α : Type} {n : Nat} {p : α → Bool} {x : α} (h : p x = false) :
    tcount (fun _ y => p y) (Vector.replicate n x) = 0 := by
  simp [tcount, h]

theorem reset_ownedCount (h : HostId) : ownedCount h State.reset = 0 := tcount_replicate (by simp)

theorem reset_occupancy (h : HostId) : occupancy h State.reset = 0 := tcount_replicate (by simp [freeExchange])

theorem reset_portServes (h : HostId) : portServes h State.reset = true := by
  rw [portServes, reset_port]
  rfl

theorem reset_arg (h : HostId) (k : Fin 24) : arg h k State.reset = 0 := by
  rw [arg, reset_port]
  exact tget_replicate _ k

theorem reset_noticeOutput (h : HostId) : noticeOutput h State.reset = false := by
  rw [noticeOutput, reset_notice]
  rfl

/-- Settles O4: the tables entry by entry, every other field by evaluation. -/
theorem resetLeavesThePowerOnValues : Obligations.ResetLeavesThePowerOnValues := by
  refine ⟨fun h => ?_, rfl, reset_slot, rfl, rfl, fun n => ?_, fun b => ⟨reset_holder b, reset_attachment b, fun _ => rfl⟩,
    rfl, rfl, rfl, reset_entry, rfl, rfl, rfl, rfl, rfl, rfl, rfl, rfl, rfl, rfl, rfl, rfl, rfl, rfl, rfl, rfl, rfl, rfl, rfl,
    fun k => tget_replicate _ k, rfl, rfl, rfl, rfl, rfl, rfl, rfl, rfl⟩
  · rw [reset_port]
    exact ⟨rfl, rfl, reset_arg h, rfl, reset_notice h, reset_noticeOutput h, reset_queue h, reset_ownedCount h,
      reset_occupancy h, reset_portServes h⟩
  · rw [reset_station]
    exact ⟨rfl, rfl, rfl, rfl, fun h => ⟨tget_replicate _ h, tget_replicate _ h⟩, rfl⟩

/-! ## POWER_ON_RESET and its release -/

theorem portServes_held {s : State} (h : HostId) (hp : s.porst = true) : portServes h s = false := by
  simp [portServes, hp]

theorem portServes_iff (h : HostId) (s : State) :
    portServes h s = true ↔ s.porst = false ∧ (s.port h).phase = .serving ∧ (s.port h).claim = none
      ∧ ¬ AccessInService h s ∧ (s.port h).waiting = [] := by
  rw [← portInService_iff]
  simp [portServes, and_assoc]

theorem powerOnReset_port (h : HostId) (s : State) : (powerOnReset s).port h = powerOnPort (s.port h) := tget_tmap _ _ h

theorem powerOnResetRelease_held {s : State} (hp : s.porst = true) :
    powerOnResetRelease s =
      { s with porst := false, lif := { s.lif with run := if s.lif.input then none else some (freshRun s) } } :=
  if_pos hp

/-- Settles O54: the reset block by block, then the release. -/
theorem powerOnResetSetsEveryBlock : Obligations.PowerOnResetSetsEveryBlock := by
  refine ⟨fun s => ⟨powerOnReset s, rfl, rfl, rfl, rfl, fun h => ?_, fun h => portServes_held h rfl, rfl⟩, fun s hp => ?_⟩
  · rw [powerOnReset_port, reset_port]
    rfl
  · rw [show exec .powerOnResetRelease s = .next (powerOnResetRelease s) from rfl, powerOnResetRelease_held hp]
    refine ⟨_, rfl, rfl, fun h => ?_, by rw [← hp]⟩
    rw [portServes_iff]
    exact and_iff_right rfl

end Sys2Proof.FieldLine
end

section
/-! The reads and subscriptions of records (R31 to R33, R141): which record a command's argument names, and what it leaves. -/

namespace Sys2Proof.StationRecords

open Sys2Proof.Machine

/-! ## The commands where the port serves -/

section
variable {h : HostId} {s : State} (hs : portServes h s = true)
include hs

theorem exec_readStation : exec (.readStation h) s = .next (readStation h s) := served_next hs
theorem exec_readPoll : exec (.readPoll h) s = .next (readPoll h s) := served_next hs
theorem exec_subscribe : exec (.subscribe h) s = .next (subscribe h s) := served_next hs
theorem exec_unsubscribe : exec (.unsubscribe h) s = .next (unsubscribe h s) := served_next hs
theorem exec_revive : exec (.revive h) s = .next (revive h s) := served_next hs

end

/-! ## The record that an argument names -/

theorem ne_of_toNat_lt {b : Byte} (hb : b.toNat < 255) : b ≠ 0xFF := by
  rintro rfl
  exact absurd hb (by decide)

theorem readTarget_number {h : HostId} {b : Byte} {s : State} {n : StationNo} (hb : b.toNat = n.val + 1) :
    readTarget h b s = .ok n := by
  have hn := n.isLt
  rw [readTarget, if_neg (ne_of_toNat_lt (by omega)), stationOf_some hb]

theorem readTarget_lowestUnread {h : HostId} {s : State} {n : StationNo} (hu : tget (s.station n).unread h = true)
    (hlow : ∀ m, m < n → tget (s.station m).unread h = false) : readTarget h 0xFF s = .ok n := by
  have hfind : tfind (fun _ x => tget x.unread h) s.stations = some n := (tfind_eq_some _ _ _).2 ⟨hu, hlow⟩
  simp [readTarget, hfind]

theorem readTarget_noneUnread {h : HostId} {s : State} (hn : ∀ m, tget (s.station m).unread h = false) :
    readTarget h 0xFF s = .error .notFound := by
  have hfind : tfind (fun _ x => tget x.unread h) s.stations = none := (tfind_eq_none _ _).2 hn
  simp [readTarget, hfind]

theorem readTarget_badParam {h : HostId} {b : Byte} {s : State} (hb : b = 0 ∨ 32 ≤ b.toNat ∧ b ≠ 0xFF) :
    readTarget h b s = .error .badParam := by
  have hff : b ≠ 0xFF := by
    rcases hb with rfl | ⟨-, hff⟩
    · decide
    · exact hff
  rw [readTarget, if_neg hff, stationOf_none (hb.imp_right And.left)]

theorem notOwned_iff (h : HostId) (x : PollEntry) : notOwned h x = true ↔ x.state = .unused ∨ x.owner ≠ h := by
  simp [notOwned]

theorem notOwned_false_iff (h : HostId) (x : PollEntry) : notOwned h x = false ↔ x.state ≠ .unused ∧ x.owner = h := by
  simp [notOwned]

theorem readPollTarget_number {h : HostId} {b : Byte} {s : State} {e : EntryNo} (hb : b.toNat = e.val) :
    readPollTarget h b s = if notOwned h (s.entry e) then .error .notOwner else .ok e := by
  have he := e.isLt
  rw [readPollTarget, if_neg (ne_of_toNat_lt (by omega)), entryOf_some hb]

/-- READ_POLL's 0xFF passes an entry by: it is UNUSED, another host's, or has no unread change. -/
theorem passedBy_iff (h : HostId) (x : PollEntry) :
    (!notOwned h x && x.unreadChange) = false ↔ x.state = .unused ∨ x.owner ≠ h ∨ x.unreadChange = false := by
  simp [notOwned, imp_iff_not_or, or_assoc]

theorem readPollTarget_lowestUnread {h : HostId} {s : State} {e : EntryNo} (ho : notOwned h (s.entry e) = false)
    (hu : (s.entry e).unreadChange = true)
    (hlow : ∀ m, m < e → (s.entry m).state = .unused ∨ (s.entry m).owner ≠ h ∨ (s.entry m).unreadChange = false) :
    readPollTarget h 0xFF s = .ok e := by
  have hfind : tfind (fun _ x => !notOwned h x && x.unreadChange) s.entries = some e :=
    (tfind_eq_some _ _ _).2 ⟨(Bool.and_eq_true_iff).2 ⟨by rw [Bool.not_eq_true', ← ho]; rfl, hu⟩,
      fun m hm => (passedBy_iff _ _).2 (hlow m hm)⟩
  simp [readPollTarget, hfind]

theorem readPollTarget_noneUnread {h : HostId} {s : State}
    (hn : ∀ m, (s.entry m).state = .unused ∨ (s.entry m).owner ≠ h ∨ (s.entry m).unreadChange = false) :
    readPollTarget h 0xFF s = .error .notFound := by
  have hfind : tfind (fun _ x => !notOwned h x && x.unreadChange) s.entries = none :=
    (tfind_eq_none _ _).2 fun m => (passedBy_iff _ _).2 (hn m)
  simp [readPollTarget, hfind]

theorem readPollTarget_badParam {h : HostId} {b : Byte} {s : State} (hb : 16 ≤ b.toNat) (hff : b ≠ 0xFF) :
    readPollTarget h b s = .error .badParam := by
  rw [readPollTarget, if_neg hff, entryOf_none hb]

/-! ## READ_STATION and READ_POLL -/

section
variable {h : HostId} {s : State}

theorem readStation_shows {n : StationNo} (ht : readTarget h (arg h 0 s) s = .ok n) :
    readStation h s = answerWith h .ok 0 (stationCopy h n (s.station n))
      (s.setStation n { s.station n with unread := tput (s.station n).unread h false }) := by
  simp [readStation, ht]

theorem readStation_refuses {r : ResultCode} (ht : readTarget h (arg h 0 s) s = .error r) :
    readStation h s = answer h r s := by
  simp [readStation, ht]

theorem readPoll_shows {e : EntryNo} (ht : readPollTarget h (arg h 0 s) s = .ok e) :
    readPoll h s = answerWith h .ok 0 (entryCopy e (s.entry e))
      (s.setEntry e { s.entry e with unreadChange := false }) := by
  simp [readPoll, ht]

theorem readPoll_refuses {r : ResultCode} (ht : readPollTarget h (arg h 0 s) s = .error r) :
    readPoll h s = answer h r s := by
  simp [readPoll, ht]

end

/-- Settles O18, by the record that the argument names. -/
theorem recordReadsShowThenClear : Obligations.RecordReadsShowThenClear := by
  intro h s hs
  simp only [exec_readStation hs, exec_readPoll hs, Host.Outcome.next.injEq]
  refine ⟨fun n hn => readStation_shows ?_, fun hff hu => readStation_refuses ?_, fun hb => readStation_refuses ?_,
    fun e hst ho he => readPoll_shows ?_, fun hff hu => readPoll_refuses ?_, fun e he ho => readPoll_refuses ?_,
    fun hb hff => readPoll_refuses ?_⟩
  · rcases hn with hn | ⟨hff, hu, hlow⟩
    · exact readTarget_number hn
    · rw [hff]
      exact readTarget_lowestUnread hu hlow
  · rw [hff]
    exact readTarget_noneUnread hu
  · exact readTarget_badParam hb
  · have hown := (notOwned_false_iff h (s.entry e)).2 ⟨hst, ho⟩
    rcases he with he | ⟨hff, hu, hlow⟩
    · rw [readPollTarget_number he, hown]
      rfl
    · rw [hff]
      exact readPollTarget_lowestUnread hown hu hlow
  · rw [hff]
    exact readPollTarget_noneUnread hu
  · rw [readPollTarget_number he, if_pos ((notOwned_iff h (s.entry e)).2 ho)]
  · exact readPollTarget_badParam hb hff

/-! ## SUBSCRIBE and UNSUBSCRIBE -/

section
variable {h : HostId} {s : State}

theorem subscribe_station {n : StationNo} (ha : stationOf (arg h 0 s) = some n) :
    subscribe h s = if tget (s.station n).subscribers h then answer h .ok s
      else answer h .ok (s.setStation n { s.station n with
        subscribers := tput (s.station n).subscribers h true, unread := tput (s.station n).unread h false }) := by
  simp [subscribe, ha]

theorem unsubscribe_station {n : StationNo} (ha : stationOf (arg h 0 s) = some n) :
    unsubscribe h s = if tget (s.station n).subscribers h then
        answer h .ok (s.setStation n { s.station n with
          subscribers := tput (s.station n).subscribers h false, unread := tput (s.station n).unread h false })
      else answer h .notFound s := by
  simp [unsubscribe, ha]

theorem subscribe_badParam (ha : stationOf (arg h 0 s) = none) : subscribe h s = answer h .badParam s := by
  simp [subscribe, ha]

theorem unsubscribe_badParam (ha : stationOf (arg h 0 s) = none) : unsubscribe h s = answer h .badParam s := by
  simp [unsubscribe, ha]

end

/-- Settles O19, by whether the argument names a station and the host is in its set. -/
theorem subscribeAndUnsubscribe : Obligations.SubscribeAndUnsubscribe := by
  intro h s hs
  rw [exec_subscribe hs, exec_unsubscribe hs]
  refine ⟨fun n hn => ?_, fun hb => ?_⟩
  · have ha := stationOf_some hn
    rw [subscribe_station ha, unsubscribe_station ha]
    constructor <;> intro hin <;> simp [hin]
  · have ha := stationOf_none hb
    rw [subscribe_badParam ha, unsubscribe_badParam ha]
    exact ⟨rfl, rfl⟩

end Sys2Proof.StationRecords
end

section
/-! Changes of a station (R22 to R30, R34, R36): what its subscribers are told, REVIVE, and the exchange-end report. -/

namespace Sys2Proof.StationRecords

open Sys2Proof.Machine

/-! ## What the Station Table changes -/

/-- The state `t` is `s` but for its notices. -/
def NoticesOnly (s t : State) : Prop := { t with notices := s.notices } = s

/-- The state `t` is `s` but for what the Station Table changes: its records, the notices it gives, what it hands on. -/
def TableOnly (s t : State) : Prop := { t with stations := s.stations, notices := s.notices, hand := s.hand } = s

section
variable {s t u : State}

theorem NoticesOnly.trans (h : NoticesOnly s t) (h' : NoticesOnly t u) : NoticesOnly s u := by
  unfold NoticesOnly at *
  rw [← h, ← h']

theorem NoticesOnly.station (h : NoticesOnly s t) (n : StationNo) : t.station n = s.station n := by
  rw [← h]
  rfl

theorem NoticesOnly.hand (h : NoticesOnly s t) : t.hand = s.hand := by
  rw [← h]

theorem NoticesOnly.table (h : NoticesOnly s t) : TableOnly s t := by
  unfold TableOnly
  rw [← h]

theorem TableOnly.trans (h : TableOnly s t) (h' : TableOnly t u) : TableOnly s u := by
  unfold TableOnly at *
  rw [← h, ← h']

theorem TableOnly.port (h : TableOnly s t) (k : HostId) : t.port k = s.port k := by
  rw [← h]
  rfl

theorem setStation_table (n : StationNo) (x : Station) (s : State) : TableOnly s (s.setStation n x) := rfl

theorem setHand_table (x : HandOvers) (s : State) : TableOnly s (s.setHand x) := rfl

theorem latch_noticesOnly (h : HostId) (src : NoticeSource) (s : State) : NoticesOnly s (latch h src s) :=
  (latch_spec h src s).2

theorem latchEach_noticesOnly (src : NoticeSource) : ∀ (hosts : List HostId) (s : State),
    NoticesOnly s (latchEach src hosts s)
  | [], _ => rfl
  | h :: hosts, s => (latch_noticesOnly h src s).trans (latchEach_noticesOnly src hosts _)

end

/-! ## The telling of a station's subscribers (R30) -/

section
variable (n : StationNo) (s : State)

/-- A record with the unread-change flag of every subscriber set. -/
def withUnread (x : Station) : Station := { x with unread := tmap (fun k u => u || tget x.subscribers k) x.unread }

theorem stationChange_station (m : StationNo) :
    (stationChange n s).station m = if n = m then withUnread (s.station n) else s.station m :=
  State.setStation_station s n _ m

theorem stationChange_notice (k : HostId) : (stationChange n s).notice k =
    if tget (s.station n).subscribers k then (s.notice k).latched .stationChange else s.notice k := by
  simp [stationChange, State.notice]

theorem stationChange_frame (stations : Table Station 31) (notices : Table NoticeCtl 4) :
    { stationChange n s with stations := stations, notices := notices }
      = { s with stations := stations, notices := notices } := rfl

theorem stationChange_table : TableOnly s (stationChange n s) := rfl

end

/-! ## A flush taken ahead of REVIVE (log 7) -/

/-- The state `t` has the ports, the claim in service, the stations and the hand-overs of `s`. -/
structure SamePortsAndStations (s t : State) : Prop where
  porst : t.porst = s.porst
  ports : t.ports = s.ports
  service : t.service = s.service
  stations : t.stations = s.stations
  hand : t.hand = s.hand

theorem SamePortsAndStations.trans {s t u : State} (h : SamePortsAndStations s t) (h' : SamePortsAndStations t u) :
    SamePortsAndStations s u :=
  ⟨h'.porst.trans h.porst, h'.ports.trans h.ports, h'.service.trans h.service, h'.stations.trans h.stations,
    h'.hand.trans h.hand⟩

theorem unlend_finish_same (a : Attacher) (s : State) (f : Word16) :
    SamePortsAndStations s (unlend a { s with finish := f }) := ⟨rfl, rfl, rfl, rfl, rfl⟩

theorem post_same (i : SlotNo) (x : Exchange) (s : State) : SamePortsAndStations s (post i x s) := ⟨rfl, rfl, rfl, rfl, rfl⟩

theorem setSlot_same (i : SlotNo) (x : Exchange) (s : State) : SamePortsAndStations s (s.setSlot i x) :=
  ⟨rfl, rfl, rfl, rfl, rfl⟩

theorem enterDone_same (i : SlotNo) (x : Exchange) (s : State) : SamePortsAndStations s (enterDone i x s) := by
  have hunlent : SamePortsAndStations s (unlend (.slot i) { s with finish := s.finish + 1 }) :=
    unlend_finish_same _ s _
  unfold enterDone
  simp only []
  split
  · exact hunlent.trans (post_same _ _ _)
  · exact hunlent.trans (setSlot_same _ _ _)

theorem flushSlot_same (n : StationNo) (s : State) (i : SlotNo) : SamePortsAndStations s (flushSlot n s i) := by
  unfold flushSlot
  split
  · exact enterDone_same i _ s
  · exact ⟨rfl, rfl, rfl, rfl, rfl⟩

theorem foldl_flushSlot_same (n : StationNo) : ∀ (l : List SlotNo) (s : State),
    SamePortsAndStations s (l.foldl (flushSlot n) s)
  | [], _ => ⟨rfl, rfl, rfl, rfl, rfl⟩
  | i :: l, s => (flushSlot_same n s i).trans (foldl_flushSlot_same n l _)

theorem stationFlush_same {n : StationNo} {s : State} (hf : s.hand.flush = some n) :
    SamePortsAndStations { s with hand := { s.hand with flush := none } } (stationFlush s) := by
  rw [stationFlush, hf]
  exact foldl_flushSlot_same n _ _

/-! ## REVIVE (R36) -/

section
variable {h : HostId} {s : State}

theorem revive_failed {n : StationNo} (ha : stationOf (arg h 0 s) = some n) (hx : (s.station n).state = .failed) :
    revive h s = answer h .ok (reviveStation n (settleFlush n s)) := by
  simp [revive, ha, hx]

theorem revive_notFailed {n : StationNo} (ha : stationOf (arg h 0 s) = some n) (hx : (s.station n).state ≠ .failed) :
    revive h s = answer h .badParam s := by
  simp [revive, ha, hx]

theorem revive_badParam (ha : stationOf (arg h 0 s) = none) : revive h s = answer h .badParam s := by
  simp [revive, ha]

theorem settleFlush_none {n : StationNo} (hf : s.hand.flush ≠ some n) : settleFlush n s = s := if_neg hf

theorem settleFlush_some {n : StationNo} (hf : s.hand.flush = some n) : settleFlush n s = stationFlush s := if_pos hf

/-- REVIVE with the station's flush waiting is REVIVE after the flush. -/
theorem revive_after_flush {n : StationNo} (hs : portServes h s = true) (ha : stationOf (arg h 0 s) = some n)
    (hx : (s.station n).state = .failed) (hf : s.hand.flush = some n) :
    exec (.revive h) s = exec (.revive h) (stationFlush s) := by
  have same := stationFlush_same hf
  have hport : (stationFlush s).port h = s.port h := congrArg (tget · h) same.ports
  have hserves : portServes h (stationFlush s) = true := by
    rw [← hs, portServes, portServes, portInService, portInService, hport, same.porst, same.service]
  have ha' : stationOf (arg h 0 (stationFlush s)) = some n := by rwa [arg, hport]
  have hx' : ((stationFlush s).station n).state = .failed := by rwa [State.station, same.stations]
  have hf' : (stationFlush s).hand.flush ≠ some n := by simp [same.hand]
  rw [exec_revive hs, exec_revive hserves, revive_failed ha hx, revive_failed ha' hx', settleFlush_some hf,
    settleFlush_none hf']

end

/-- Settles O20, by the named station's state and whether its flush waits. -/
theorem reviveLeavesFailed : Obligations.ReviveLeavesFailed := by
  intro h s hs
  refine ⟨fun n hn => ?_, fun hb => by rw [exec_revive hs, revive_badParam (stationOf_none hb)]⟩
  have ha := stationOf_some hn
  refine ⟨fun hx hf => ⟨reviveStation n s, ?_, ?_, fun m hm => ?_, fun k => ?_, ?_⟩, fun hx hf u hu => ?_, fun hx => ?_⟩
  · rw [exec_revive hs, revive_failed ha hx, settleFlush_none hf]
  · simp [reviveStation, stationChange_station, withUnread]
  · simp [reviveStation, stationChange_station, Ne.symm hm]
  · simp [reviveStation, stationChange_notice]
  · rw [reviveStation, stationChange_frame]
    rfl
  · have hp : s.porst = false := ((FieldLine.portServes_iff h s).1 hs).1
    have hflush : exec .stationFlush s = .next (stationFlush s) := internal_spec.1 hp
    obtain rfl : stationFlush s = u := by simpa [hflush] using hu
    exact revive_after_flush hs ha hx hf
  · rw [exec_revive hs, revive_notFailed ha hx]

/-! ## What an exchange-end report makes of a record (R22 to R29) -/

section
variable (threshold : Nat) {r : EndReport} {x : Station}

theorem afterReport_subscribers : (afterReport threshold r x).subscribers = x.subscribers := by
  unfold afterReport
  split_ifs <;> rfl

theorem afterReport_unread : (afterReport threshold r x).unread = x.unread := by
  unfold afterReport
  split_ifs <;> rfl

theorem afterReport_hold : (afterReport threshold r x).hold = x.hold := by
  unfold afterReport
  split_ifs <;> rfl

theorem afterReport_nextSeq : (afterReport threshold r x).nextSeq = if r.transmitted then !x.nextSeq else x.nextSeq := by
  unfold afterReport
  split_ifs <;> rfl

theorem afterReport_answer (ho : r.outcome = .answered ∨ r.outcome = .refused) :
    (afterReport threshold r x).state = .online ∧ (afterReport threshold r x).failures = 0
      ∧ (afterReport threshold r x).attention = r.attention := by
  simp [afterReport, answersStation, ho]

theorem moreFailures_eq (k : Nat) : moreFailures k = if k < 15 then k + 1 else 15 := by
  unfold moreFailures
  split_ifs <;> omega

theorem afterReport_failure (ho : r.outcome = .noReply ∨ r.outcome = .badReply) :
    (afterReport threshold r x).failures = moreFailures x.failures
      ∧ (afterReport threshold r x).attention = x.attention
      ∧ (afterReport threshold r x).state = if threshold ≤ moreFailures x.failures then .failed else .suspect := by
  rcases ho with ho | ho <;> simp [afterReport, answersStation, failsStation, ho]

theorem afterReport_neither (ho : r.outcome = .lineError ∨ r.outcome = .cancelled ∨ r.outcome = .aborted) :
    (afterReport threshold r x).state = x.state ∧ (afterReport threshold r x).failures = x.failures
      ∧ (afterReport threshold r x).attention = x.attention := by
  rcases ho with ho | ho | ho <;> simp [afterReport, answersStation, failsStation, ho]

end

theorem reportable_iff (x y : Station) :
    reportable x y = true ↔ y.state ≠ x.state ∨ (x.attention = false ∧ y.attention = true) := by
  simp [reportable, and_comm]

/-! ## The taking of a report (R22, R30, R34) -/

section
variable (r : EndReport) (s : State)

/-- The record that a report makes of its station's, before subscribers are told. -/
def reported : Station := afterReport s.active.failureThreshold r (s.station r.station)

/-- The state in which the station's record has changed and the report is taken out of the hand-overs. -/
def recorded : State := (s.setHand { s.hand with endReport := none }).setStation r.station (reported r s)

/-- That state with subscribers told, where the change is one to tell. -/
def announced : State :=
  if reportable (s.station r.station) (reported r s) then stationChange r.station (recorded r s) else recorded r s

theorem announced_hand : (announced r s).hand = { s.hand with endReport := none } := by
  unfold announced
  split <;> rfl

theorem announced_table : TableOnly s (announced r s) := by
  have hrecorded : TableOnly s (recorded r s) := (setHand_table _ s).trans (setStation_table _ _ _)
  unfold announced
  split
  · exact hrecorded.trans (stationChange_table _ _)
  · exact hrecorded

theorem announced_otherStation {m : StationNo} (hm : m ≠ r.station) : (announced r s).station m = s.station m := by
  unfold announced
  split <;> simp [stationChange_station, recorded, Ne.symm hm]

/-- Told or not, the station's record is the reported one but for its unread-change flags. -/
theorem announced_station :
    (announced r s).station r.station = { reported r s with unread := ((announced r s).station r.station).unread } := by
  unfold announced
  split <;> simp [stationChange_station, recorded, withUnread]

/-- A change to tell: every subscriber's flag is set, and each is told (R30). -/
theorem announced_told (hc : reportable (s.station r.station) (reported r s) = true) :
    (∀ k, tget ((announced r s).station r.station).unread k
      = (tget (s.station r.station).unread k || tget (s.station r.station).subscribers k))
    ∧ ∀ k, (announced r s).notice k =
      if tget (s.station r.station).subscribers k then (s.notice k).latched .stationChange else s.notice k := by
  have hsub : (reported r s).subscribers = (s.station r.station).subscribers := afterReport_subscribers _
  have hunread : (reported r s).unread = (s.station r.station).unread := afterReport_unread _
  rw [announced, if_pos hc]
  simp [stationChange_station, stationChange_notice, recorded, withUnread, hsub, hunread]

theorem announced_untold (hc : ¬ reportable (s.station r.station) (reported r s) = true) :
    ((announced r s).station r.station).unread = (s.station r.station).unread ∧ (announced r s).notices = s.notices := by
  rw [announced, if_neg hc]
  simp [recorded, reported, afterReport_unread]

/-- A report taken: subscribers are told where there is a change to tell, and last the flush of a station that enters FAILED is handed on. -/
theorem takeReport_eq : takeReport r s = (announced r s).setHand { s.hand with
    endReport := none
    flush := if (reported r s).state = .failed ∧ (s.station r.station).state ≠ .failed then some r.station
      else s.hand.flush } := by
  have hand := announced_hand r s
  rw [show takeReport r s = if (reported r s).state = .failed ∧ (s.station r.station).state ≠ .failed then
    (announced r s).setHand { (announced r s).hand with flush := some r.station } else announced r s from rfl]
  split
  · rw [hand]
  · rw [← hand, State.setHand_self]

end

theorem exec_exchangeEndReport {s : State} {r : EndReport} (hp : s.porst = false) (hr : s.hand.endReport = some r)
    (he : s.hand.exchangeEnd = none) : exec .exchangeEndReport s = .next (takeReport r s) := by
  rw [show exec .exchangeEndReport s = .next (exchangeEndReport s) from internal_spec.1 hp, exchangeEndReport, hr, he]
  rfl

/-- Settles O21: the record by outcome, then the telling and the flush by the change of the record. -/
theorem reportChangesTheRecord : Obligations.ReportChangesTheRecord := by
  intro s r hp hr he
  refine ⟨takeReport r s, exec_exchangeEndReport hp hr he, ?_, fun m hm => ?_, ?_⟩
  · rw [takeReport_eq, State.setHand_station, announced_station]
    intro x y count told
    have hchange : told ↔ reportable x (reported r s) = true := (reportable_iff _ _).symm
    refine ⟨afterReport_nextSeq _, afterReport_answer _, fun ho => ?_, afterReport_neither _, afterReport_subscribers _,
      afterReport_hold _, fun ht => announced_told r s (hchange.1 ht),
      fun ht => announced_untold r s fun hc => ht (hchange.2 hc), rfl⟩
    obtain ⟨hfailures, hattention, hstate⟩ := afterReport_failure s.active.failureThreshold (x := x) ho
    exact ⟨hfailures.trans (moreFailures_eq _), hattention, hstate.trans (by rw [← hfailures]; rfl)⟩
  · rw [takeReport_eq]
    exact announced_otherStation r s hm
  · rw [takeReport_eq]
    exact (announced_table r s).trans (setHand_table _ _)

end Sys2Proof.StationRecords
end

section
/-! The Station Table's part of a port reset's release (R38, R126): the host forgotten at every station, then its holds handed over in station order. -/

namespace Sys2Proof.StationRecords

open Sys2Proof.Machine

/-! ## A hand-over (R118) -/

/-- The waiter chosen and those left behind it come from the wait list. -/
theorem chooseWaiter_mem (count : HostId → Nat) : ∀ (ws : List Waiter) (w : Waiter) (rest : List Waiter),
    (chooseWaiter count ws).2 = some (w, rest) → w ∈ ws ∧ ∀ v ∈ rest, v ∈ ws
  | [], w, rest, hc => by cases hc
  | v :: ws, w, rest, hc => by
    rw [chooseWaiter] at hc
    split at hc
    · cases hc
      exact ⟨List.mem_cons_self, fun u hu => List.mem_cons_of_mem _ hu⟩
    · obtain ⟨hw, hrest⟩ := chooseWaiter_mem count ws w rest hc
      exact ⟨List.mem_cons_of_mem _ hw, fun u hu => List.mem_cons_of_mem _ (hrest u hu)⟩

/-- A hold part is made of the waiters of a list alone: its holder and its waiters stand in it. -/
def MadeOf (ws : List Waiter) (hold : Option Hold) : Prop :=
  ∀ k, hold = some k → (∃ w ∈ ws, k.holder = w.host) ∧ ∀ v ∈ k.waiters, v ∈ ws

/-- The state `t` is `s` with another hold part at station `n`, notices given and a run asked for. -/
structure HoldReplaced (n : StationNo) (hold : Option Hold) (s t : State) : Prop where
  station : ∀ m, t.station m = if n = m then { s.station n with hold := hold } else s.station m
  hand : t.hand = { s.hand with runAsked := true }
  table : TableOnly s t

/-- What a hand-over can do: the hold part is replaced by one made of those who waited. -/
theorem handOver_replaces {n : StationNo} {s : State} {k : Hold} (hk : (s.station n).hold = some k) :
    ∃ hold, MadeOf k.waiters hold ∧ HoldReplaced n hold s (handOver n s) := by
  simp only [handOver, hk]
  generalize hc : chooseWaiter _ k.waiters = c
  have hstation := State.setStation_station s n { s.station n with hold := none }
  have htable := setStation_table n { s.station n with hold := none } s
  have hand : (s.setStation n { s.station n with hold := none }).hand = s.hand := rfl
  generalize s.setStation n { s.station n with hold := none } = u at hstation htable hand ⊢
  have told := latchEach_noticesOnly .holdExpired c.1 u
  generalize latchEach .holdExpired c.1 u = v at told ⊢
  split
  · refine ⟨none, fun _ h => (by cases h), fun m => ?_, ?_, ?_⟩
    · exact (told.station m).trans (hstation m)
    · rw [← hand, ← told.hand]
      rfl
    · exact (htable.trans told.table).trans (setHand_table _ v)
  · next w ws hchosen =>
    obtain ⟨hw, hws⟩ := chooseWaiter_mem _ _ _ _ (hc ▸ hchosen)
    have granted := latch_noticesOnly w.host .holdGranted
      (v.setStation n { s.station n with hold := some ⟨w.host, w.lease, ws, false⟩ })
    refine ⟨some ⟨w.host, w.lease, ws, false⟩, ?_, fun m => ?_, ?_, ?_⟩
    · rintro _ ⟨⟩
      exact ⟨⟨w, hw, rfl⟩, hws⟩
    · refine (granted.station m).trans ((State.setStation_station _ n _ m).trans (ite_congr rfl (fun _ => rfl) fun hne => ?_))
      rw [told.station, hstation, if_neg hne]
    · rw [← hand, ← told.hand]
      rfl
    · exact (((htable.trans told.table).trans (setStation_table n _ v)).trans granted.table).trans (setHand_table _ _)

/-! ## The hand-overs in station order -/

theorem heldBy_iff (h : HostId) (x : Station) : heldBy h x = true ↔ ∃ k, x.hold = some k ∧ k.holder = h := by
  unfold heldBy
  cases x.hold <;> simp

theorem heldBy_false_iff (h : HostId) (x : Station) : heldBy h x = false ↔ ∀ k, x.hold = some k → k.holder ≠ h := by
  rw [← Bool.not_eq_true, heldBy_iff]
  push Not
  rfl

/-- Host `h` stands in no wait list. -/
def WaitsNowhere (h : HostId) (s : State) : Prop :=
  ∀ n k, (s.station n).hold = some k → ∀ w ∈ k.waiters, w.host ≠ h

theorem handOverIfHeld_held {h : HostId} {s : State} {n : StationNo} (hx : heldBy h (s.station n) = true) :
    handOverIfHeld h s n = handOver n s := if_pos hx

theorem handOverIfHeld_passed {h : HostId} {s : State} {n : StationNo} (hx : heldBy h (s.station n) = false) :
    handOverIfHeld h s n = s := if_neg (by simp [hx])

theorem foldl_handedInTurn (h : HostId) : ∀ (l : List StationNo) (s : State),
    HandedInTurn h l s (l.foldl (handOverIfHeld h) s)
  | [], _ => rfl
  | n :: l, s => by
    refine ⟨handOverIfHeld h s n, fun hx => ?_, fun hx => ?_, foldl_handedInTurn h l _⟩
    · rw [handOverIfHeld_held ((heldBy_iff _ _).2 hx)]
      exact handOver_spec n s
    · exact handOverIfHeld_passed ((heldBy_false_iff _ _).2 hx)

/-- The state `t` is `s` after host `h`'s holds at the stations of a list have passed to others. -/
structure HoldsPassed (h : HostId) (l : List StationNo) (s t : State) : Prop where
  holds : ∀ n, ∃ hold, t.station n = { s.station n with hold := hold }
  others : ∀ n, heldBy h (s.station n) = false → t.station n = s.station n
  departed : ∀ n ∈ l, heldBy h (t.station n) = false
  asked : (∃ n ∈ l, heldBy h (s.station n) = true) → t.hand = { s.hand with runAsked := true }
  quiet : (∀ n ∈ l, heldBy h (s.station n) = false) → t = s
  table : TableOnly s t

/-- A station passed by because the host does not hold it. -/
theorem HoldsPassed.passing {h : HostId} {n : StationNo} {l : List StationNo} {s t : State}
    (hx : heldBy h (s.station n) = false) (hl : HoldsPassed h l s t) : HoldsPassed h (n :: l) s t where
  holds := hl.holds
  others := hl.others
  departed := List.forall_mem_cons.2 ⟨by rw [hl.others n hx, hx], hl.departed⟩
  asked := fun ⟨m, hm, hheld⟩ => hl.asked ⟨m, (List.mem_cons.1 hm).resolve_left fun he => by simp [he, hx] at hheld, hheld⟩
  quiet := fun hn => hl.quiet (List.forall_mem_cons.1 hn).2
  table := hl.table

/-- A station handed over first; the host waits nowhere, so that the station cannot come back to it. -/
theorem HoldsPassed.handing {h : HostId} {n : StationNo} {l : List StationNo} {s u t : State} {hold : Option Hold}
    (hx : heldBy h (s.station n) = true) (hfree : heldBy h { s.station n with hold := hold } = false)
    (hu : HoldReplaced n hold s u) (hl : HoldsPassed h l u t) : HoldsPassed h (n :: l) s t where
  holds m := by
    obtain ⟨hold', hm⟩ := hl.holds m
    rw [hm, hu.station]
    split
    · next he => exact ⟨hold', by rw [he]⟩
    · exact ⟨hold', rfl⟩
  others m hm := by
    have hne : n ≠ m := fun he => by simp [he, hm] at hx
    have hum : u.station m = s.station m := (hu.station m).trans (if_neg hne)
    rw [← hum] at hm ⊢
    exact hl.others m hm
  departed := List.forall_mem_cons.2
    ⟨by rw [hl.others n (by rw [hu.station, if_pos rfl, hfree]), hu.station, if_pos rfl, hfree], hl.departed⟩
  asked _ := by
    by_cases hmore : ∃ m ∈ l, heldBy h (u.station m) = true
    · rw [hl.asked hmore, hu.hand]
    · rw [hl.quiet (by simpa using hmore), hu.hand]
  quiet hn := by simp [hn n] at hx
  table := hu.table.trans hl.table

theorem foldl_holdsPassed (h : HostId) : ∀ (l : List StationNo) (s : State), WaitsNowhere h s →
    HoldsPassed h l s (l.foldl (handOverIfHeld h) s)
  | [], s, _ => ⟨fun n => ⟨_, rfl⟩, fun _ _ => rfl, by simp, by simp, fun _ => rfl, rfl⟩
  | n :: l, s, hw => by
    rw [List.foldl_cons]
    cases hx : heldBy h (s.station n) with
    | false =>
      rw [handOverIfHeld_passed hx]
      exact .passing hx (foldl_holdsPassed h l s hw)
    | true =>
      obtain ⟨k, hk, -⟩ := (heldBy_iff _ _).1 hx
      obtain ⟨hold, hmade, hu⟩ := handOver_replaces hk
      have hfree : heldBy h { s.station n with hold := hold } = false := by
        refine (heldBy_false_iff _ _).2 fun k' hk' hh => ?_
        obtain ⟨⟨w, hmem, heq⟩, -⟩ := hmade k' hk'
        exact hw n k hk w hmem (heq ▸ hh)
      have hw' : WaitsNowhere h (handOver n s) := by
        intro m k' hk' w hmem
        rw [hu.station] at hk'
        split at hk'
        · exact hw n k hk w ((hmade k' hk').2 w hmem)
        · exact hw m k' hk' w hmem
      rw [handOverIfHeld_held hx]
      exact .handing hx hfree hu (foldl_holdsPassed h l _ hw')

/-! ## STAB_RESET_PART -/

/-- The state with host `h` no subscriber and no waiter of any station. -/
def forgotten (h : HostId) (s : State) : State := { s with stations := tmap (fun _ x => forgetHost h x) s.stations }

theorem forgotten_station (h : HostId) (s : State) (n : StationNo) :
    (forgotten h s).station n = forgetHost h (s.station n) := tget_tmap _ _ n

theorem forgotten_waitsNowhere (h : HostId) (s : State) : WaitsNowhere h (forgotten h s) := by
  intro n k hk w hw
  rw [forgotten_station] at hk
  obtain ⟨k', -, rfl⟩ := Option.map_eq_some_iff.1 hk
  simpa using (List.mem_filter.1 hw).2

/-- Forgetting a host as a waiter leaves the holders. -/
theorem heldBy_forgetHost (j h : HostId) (x : Station) : heldBy j (forgetHost h x) = heldBy j x := by
  unfold heldBy forgetHost
  cases x.hold <;> rfl

theorem exec_stabResetPart {h : HostId} {s : State} (hp : s.porst = false) (hr : (s.port h).phase = .releasing .stab) :
    exec (.stabResetPart h) s = .next (setPhase h (.releasing .cq) (resetStations h s)) := by
  rw [show exec (.stabResetPart h) s = .next (stabResetPart h s) from internal_spec.1 hp, stabResetPart, releasePart, if_pos hr]

theorem heldCount_eq_zero {h : HostId} {s : State} (hn : ∀ n, heldBy h (s.station n) = false) : heldCount h s = 0 := by
  rw [heldCount, tcount, List.countP_eq_zero]
  exact fun n _ => Bool.not_eq_true _ ▸ hn n

/-- Settles O59: the host waits nowhere once it is forgotten, so its holds pass to others in turn. -/
theorem releaseAtTheStationTable : Obligations.ReleaseAtTheStationTable := by
  intro h s hp hr
  have hexec := exec_stabResetPart hp hr
  have inTurn : HandedInTurn h (List.finRange 31) (forgotten h s) (resetStations h s) := foldl_handedInTurn h _ _
  have passed : HoldsPassed h (List.finRange 31) (forgotten h s) (resetStations h s) :=
    foldl_holdsPassed h _ _ (forgotten_waitsNowhere h s)
  generalize resetStations h s = v at hexec inTurn passed
  have hport : v.port h = s.port h := passed.table.port h
  have hheld : ∀ n, heldBy h ((forgotten h s).station n) = heldBy h (s.station n) := fun n => by
    rw [forgotten_station, heldBy_forgetHost]
  refine ⟨forgotten h s, v, v.setPort h { s.port h with phase := .releasing .cq }, ?_, forgotten_station h s, rfl, inTurn,
    rfl, heldCount_eq_zero fun n => ?_, passed.holds, fun n hn => ?_, fun hsome => ?_, fun hnone => ?_, ?_⟩
  · rw [hexec, setPhase, hport]
  · exact passed.departed n (List.mem_finRange n)
  · exact passed.others n ((hheld n).trans ((heldBy_false_iff _ _).2 hn))
  · obtain ⟨n, hn⟩ := hsome
    exact passed.asked ⟨n, List.mem_finRange n, (hheld n).trans ((heldBy_iff _ _).2 hn)⟩
  · have hquiet := passed.quiet fun n _ => (hheld n).trans ((heldBy_false_iff _ _).2 (hnone n))
    rw [hquiet]
    exact ⟨rfl, rfl⟩
  · exact congrArg (fun u : State => { u with ports := s.ports, stations := s.stations }) passed.table

end Sys2Proof.StationRecords
end

section
/-! What a command may do at the Buffer Pool (R39 to R41): the pool's part of the state, and the operations that leave it. -/

namespace Sys2Proof.BufferPool

open Sys2Proof.Machine

/-! ## The pool's part of the state -/

/-- What the Buffer Pool keeps: the bytes of its memory, holders, attachments and the free list (R39 to R41, R45). -/
structure Pool where
  mem : Memory
  holders : Table Holder 96
  attached : Table (Option Attachment) 96
  freeList : List BufNo

/-- The pool's part of a state. -/
def pool (s : State) : Pool := ⟨s.mem, s.holders, s.attached, s.freeList⟩

/-- From `s` to `t` no buffer byte changes, and a consistent pool stays consistent. -/
structure KeepsPool (s t : State) : Prop where
  mem : t.mem = s.mem
  ok : PoolOk s → PoolOk t

/-- A pool is consistent by its holders, attachments and free list alone. -/
theorem poolOk_congr {s t : State} (hh : t.holders = s.holders) (ha : t.attached = s.attached)
    (hf : t.freeList = s.freeList) (hs : PoolOk s) : PoolOk t := by
  simpa only [PoolOk, State.holder, State.attachment, hh, ha, hf] using hs

theorem KeepsPool.of_pool {s t : State} (h : pool t = pool s) : KeepsPool s t := by
  obtain ⟨hm, hh, ha, hf⟩ := Pool.mk.inj h
  exact ⟨hm, poolOk_congr hh ha hf⟩

theorem KeepsPool.refl (s : State) : KeepsPool s s := ⟨rfl, id⟩

theorem KeepsPool.trans {s t u : State} (h : KeepsPool s t) (h' : KeepsPool t u) : KeepsPool s u :=
  ⟨h'.mem.trans h.mem, h'.ok ∘ h.ok⟩

/-- What follows a step at the pool and leaves the pool's part does not matter to it. -/
theorem KeepsPool.then_same {s t u : State} (h : KeepsPool s t) (h' : pool u = pool t) : KeepsPool s u :=
  h.trans (.of_pool h')

/-! ## Shared operations outside the pool -/

section
variable (s : State)

@[simp] theorem pool_setSlot (i : SlotNo) (x : Exchange) : pool (s.setSlot i x) = pool s := rfl
@[simp] theorem pool_setEntry (e : EntryNo) (x : PollEntry) : pool (s.setEntry e x) = pool s := rfl
@[simp] theorem pool_setQueue (h : HostId) (q : List Completion) : pool (s.setQueue h q) = pool s := rfl
@[simp] theorem pool_setEngine (e : Engine) : pool (s.setEngine e) = pool s := rfl
@[simp] theorem pool_setStats (x : Stats) : pool (s.setStats x) = pool s := rfl
@[simp] theorem pool_setLif (l : Lif) : pool (s.setLif l) = pool s := rfl
@[simp] theorem pool_setHand (x : HandOvers) : pool (s.setHand x) = pool s := rfl

@[simp] theorem pool_answer (h : HostId) (r : ResultCode) : pool (answer h r s) = pool s := rfl
@[simp] theorem pool_answerWith (h : HostId) (r : ResultCode) (off : Nat) (bytes : List Byte) :
    pool (answerWith h r off bytes s) = pool s := rfl
@[simp] theorem pool_latchAll (src : NoticeSource) : pool (latchAll src s) = pool s := rfl

/-- A choice between two states that leave the pool leaves it. -/
theorem pool_ite {p : Prop} [Decidable p] {t u : State} (ht : pool t = pool s) (hu : pool u = pool s) :
    pool (if p then t else u) = pool s := by
  split
  · exact ht
  · exact hu

end

/-! ## The Exchange Table, the Poll List and the Completion Queues outside the pool -/

section
variable (s : State)

@[simp] theorem pool_place (i : SlotNo) (x : Exchange) : pool (place i x s) = pool s := rfl
@[simp] theorem pool_post (i : SlotNo) (x : Exchange) : pool (post i x s) = pool s := rfl

@[simp] theorem pool_postFromBacklog (h : HostId) : pool (postFromBacklog h s) = pool s := by
  unfold postFromBacklog
  split <;> simp

@[simp] theorem pool_popCompletion (h : HostId) : pool (popCompletion h s) = pool s := by
  unfold popCompletion
  split <;> simp

@[simp] theorem pool_readExchange (h : HostId) : pool (readExchange h s) = pool s := by
  unfold readExchange
  split
  · rfl
  · exact pool_ite s rfl rfl

theorem pool_createInstance {e : EntryNo} {i : SlotNo} {t : State} (hc : createInstance e s = some (i, t)) :
    pool t = pool s := by
  unfold createInstance at hc
  split_ifs at hc
  split at hc
  · cases hc
  · cases hc
    rfl

@[simp] theorem pool_due (e : EntryNo) : pool (due e s) = pool s := by
  unfold due
  refine pool_ite s rfl (pool_ite s rfl ?_)
  split
  · next hc => exact (pool_setEntry _ e _).trans (pool_createInstance s hc)
  · rfl

@[simp] theorem pool_tickEntry (e : EntryNo) : pool (tickEntry e s) = pool s :=
  pool_ite s (pool_ite s (pool_due _ e) rfl) rfl

@[simp] theorem pool_pollDue (e : EntryNo) : pool (pollDue e s) = pool s :=
  pool_ite s (pool_tickEntry s e) (pool_ite s rfl (pool_tickEntry _ e))

@[simp] theorem pool_retime (e : EntryNo) (period first : Word16) : pool (retime e period first s) = pool s :=
  pool_ite s (pool_due _ e) rfl

@[simp] theorem pool_pollRetime (h : HostId) : pool (pollRetime h s) = pool s := by
  unfold pollRetime
  split
  · rfl
  · exact pool_ite s rfl (pool_ite s rfl (pool_ite s rfl (pool_retime s _ _ _)))

@[simp] theorem pool_readPoll (h : HostId) : pool (readPoll h s) = pool s := by
  unfold readPoll
  split <;> rfl

@[simp] theorem pool_recordEnd (d : InstanceEnd) : pool (recordEnd d s) = pool s := by
  refine pool_ite s ?_ rfl
  split
  · exact pool_ite s rfl rfl
  · rfl

end

/-! ## The Station Table -/

/-- What the Station Table changes is outside the pool. -/
theorem pool_of_tableOnly {s t : State} (h : StationRecords.TableOnly s t) : pool t = pool s := by
  rw [← h]
  rfl

section
variable (s : State)

@[simp] theorem pool_takeReport (r : EndReport) : pool (takeReport r s) = pool s := by
  rw [StationRecords.takeReport_eq, pool_setHand, pool_of_tableOnly (StationRecords.announced_table r s)]

@[simp] theorem pool_exchangeEndReport : pool (exchangeEndReport s) = pool s := by
  unfold exchangeEndReport
  split
  · rfl
  · exact pool_ite s rfl (pool_takeReport s _)

@[simp] theorem pool_readStation (h : HostId) : pool (readStation h s) = pool s := by
  unfold readStation
  split <;> rfl

@[simp] theorem pool_subscribe (h : HostId) : pool (subscribe h s) = pool s := by
  unfold subscribe
  split
  · rfl
  · exact pool_ite s rfl rfl

@[simp] theorem pool_unsubscribe (h : HostId) : pool (unsubscribe h s) = pool s := by
  unfold unsubscribe
  split
  · rfl
  · exact pool_ite s rfl rfl

@[simp] theorem pool_handOver (n : StationNo) : pool (handOver n s) = pool s := by
  cases hk : (s.station n).hold with
  | none => simp [handOver, hk]
  | some k =>
    obtain ⟨hold, -, hreplaced⟩ := StationRecords.handOver_replaces hk
    exact pool_of_tableOnly hreplaced.table

@[simp] theorem pool_holdStation (h : HostId) (n : StationNo) (lease : Word16) :
    pool (holdStation h n lease s) = pool s := by
  unfold holdStation
  simp only []
  split
  · exact pool_ite s rfl rfl
  · exact pool_ite s rfl (pool_ite s rfl (pool_ite s rfl rfl))

@[simp] theorem pool_hold (h : HostId) : pool (hold h s) = pool s := by
  unfold hold
  split
  · rfl
  · exact pool_ite s rfl (pool_holdStation s h _ _)

@[simp] theorem pool_releaseStation (h : HostId) (n : StationNo) : pool (releaseStation h n s) = pool s := by
  unfold releaseStation
  simp only []
  split
  · rfl
  · exact pool_ite s (pool_handOver s n) (pool_ite s rfl rfl)

@[simp] theorem pool_release (h : HostId) : pool (release h s) = pool s := by
  unfold release
  split
  · rfl
  · exact pool_releaseStation s h _

@[simp] theorem pool_expire (n : StationNo) (k : Hold) : pool (expire n k s) = pool s := pool_handOver _ n

@[simp] theorem pool_tickLease (n : StationNo) : pool (tickLease n s) = pool s := by
  unfold tickLease
  split
  · rfl
  · exact pool_ite s (pool_expire s n _) rfl

@[simp] theorem pool_leaseExpiry (n : StationNo) : pool (leaseExpiry n s) = pool s := by
  unfold leaseExpiry
  split
  · rfl
  · exact pool_ite s (pool_expire s n _) (pool_ite s rfl (pool_tickLease _ n))

theorem pool_foldl_handOverIfHeld (h : HostId) : ∀ (l : List StationNo) (s : State),
    pool (l.foldl (handOverIfHeld h) s) = pool s
  | [], _ => rfl
  | n :: l, s => (pool_foldl_handOverIfHeld h l _).trans (pool_ite s (pool_handOver s n) rfl)

@[simp] theorem pool_resetStations (h : HostId) : pool (resetStations h s) = pool s := pool_foldl_handOverIfHeld h _ _

end

/-! ## The Line Interface -/

section
variable (s : State)

@[simp] theorem pool_takeOrder (o : SendOrder) : pool (takeOrder o s) = pool s := pool_ite s rfl rfl
@[simp] theorem pool_cut : pool (cut s) = pool s := pool_ite s rfl rfl
@[simp] theorem pool_collide : pool (collide s) = pool s := pool_cut _

@[simp] theorem pool_placeFetch (i : Nat) : pool (placeFetch i s) = pool s := by
  refine pool_ite s ?_ rfl
  split
  · rfl
  · split <;> rfl

@[simp] theorem pool_beginCharacter (i : Nat) (v : Byte) (c : Word16) (p : Option Byte) :
    pool (beginCharacter i v c p s) = pool s := pool_placeFetch _ i

@[simp] theorem pool_openingBreakEnd : pool (openingBreakEnd s) = pool s :=
  pool_ite s (pool_beginCharacter s _ _ _ _) rfl

@[simp] theorem pool_characterSent : pool (characterSent s) = pool s := by
  refine pool_ite s (pool_ite s (pool_collide s) (pool_ite s rfl ?_)) rfl
  split
  · rfl
  · exact pool_beginCharacter s _ _ _ _

@[simp] theorem pool_echoCollision : pool (echoCollision s) = pool s := pool_ite s (pool_collide s) rfl
@[simp] theorem pool_frameSent : pool (frameSent s) = pool s := pool_ite s rfl rfl
@[simp] theorem pool_cutBreakEnd : pool (cutBreakEnd s) = pool s := pool_ite s rfl rfl

@[simp] theorem pool_breakDetected : pool (breakDetected s) = pool s := by
  unfold breakDetected
  split
  · rfl
  · refine pool_ite s rfl ?_
    split
    · exact pool_ite s rfl (pool_ite s (pool_collide _) rfl)
    all_goals rfl

@[simp] theorem pool_rise : pool (rise s) = pool s := by
  unfold rise
  simp only []
  split <;> rfl

@[simp] theorem pool_halfBitSample : pool (halfBitSample s) = pool s := by
  unfold halfBitSample
  simp only []
  split
  · rfl
  · exact pool_ite s rfl (pool_ite s (pool_ite s rfl rfl) rfl)

@[simp] theorem pool_gapLimit : pool (gapLimit s) = pool s := by
  unfold gapLimit
  simp only []
  split
  · exact pool_ite s rfl (pool_ite s rfl rfl)
  · rfl

@[simp] theorem pool_assemble (b : Byte) (k : Nat) : pool (assemble b k s) = pool s :=
  pool_ite s rfl (pool_ite s (pool_ite s rfl rfl) rfl)

@[simp] theorem pool_characterTaken (b : Byte) : pool (characterTaken b s) = pool s := by
  unfold characterTaken
  simp only []
  split
  · rfl
  · refine pool_ite s ?_ rfl
    split
    · exact pool_assemble _ _ _
    · exact pool_ite s rfl rfl
    · rfl

@[simp] theorem pool_framingError : pool (framingError s) = pool s := by
  have hback : pool (if s.lif.input then s else rise s) = pool s := pool_ite s rfl (pool_rise s)
  unfold framingError
  split
  · rfl
  · refine pool_ite s ?_ rfl
    simp only []
    split
    · exact hback
    · exact pool_ite s hback hback
    · exact hback

@[simp] theorem pool_stuckDetected : pool (stuckDetected s) = pool s := pool_ite s rfl rfl
@[simp] theorem pool_lineRecovered : pool (lineRecovered s) = pool s := pool_ite s rfl rfl

theorem pool_act (e : RxEvent) : pool (e.act s) = pool s := by
  cases e <;> simp [RxEvent.act]

theorem pool_takeDue : ∀ (n : Nat) (s : State), pool (takeDue n s) = pool s
  | 0, _ => rfl
  | n + 1, s => by
    unfold takeDue
    split
    · rfl
    · exact (pool_takeDue n _).trans (pool_act s _)

@[simp] theorem pool_catchUp : pool (catchUp s) = pool s := pool_takeDue 8 s

@[simp] theorem pool_breakEnd : pool (breakEnd s) = pool s :=
  pool_ite s ((pool_rise _).trans (pool_catchUp s)) rfl

@[simp] theorem pool_spaceToMarkEdge : pool (spaceToMarkEdge s) = pool s :=
  pool_ite s rfl (pool_ite s rfl ((pool_rise _).trans (pool_catchUp s)))

@[simp] theorem pool_markToSpaceEdge : pool (markToSpaceEdge s) = pool s :=
  pool_ite s rfl (pool_ite s (pool_catchUp s) rfl)

end

/-! ## The Line Engine and the Line Scheduler -/

section
variable (s : State)

@[simp] theorem pool_enterQuiet (frame : Bool) : pool (enterQuiet frame s) = pool s := rfl
@[simp] theorem pool_stopTimer : pool (stopTimer s) = pool s := rfl
@[simp] theorem pool_enterStuck : pool (enterStuck s) = pool s := rfl

@[simp] theorem pool_applyStaged : pool (applyStaged s) = pool s := by
  unfold applyStaged
  split <;> rfl

@[simp] theorem pool_enterIdle : pool (enterIdle s) = pool s := pool_applyStaged _
@[simp] theorem pool_beginAttempt (i : SlotNo) (first : Bool) : pool (beginAttempt i first s) = pool s := pool_takeOrder _ _
@[simp] theorem pool_exchangeEnd (i : SlotNo) (r : AttemptResult) : pool (exchangeEnd i r s) = pool s := rfl

@[simp] theorem pool_attemptEnd (r : AttemptResult) : pool (attemptEnd r s) = pool s := by
  unfold attemptEnd
  split
  · rfl
  · exact pool_ite s rfl rfl

/-- A report taken leaves the pool if what takes it does. -/
theorem pool_withReport {act : Report → State → Option State} (h : ∀ r t u, act r t = some u → pool u = pool t) :
    pool (withReport s act) = pool s := by
  unfold withReport
  split
  · rfl
  · next r rest _ =>
    cases hu : act r (s.setLif { s.lif with reports := rest }) with
    | none => rfl
    | some u => exact (h _ _ _ hu).trans (pool_setLif s _)

theorem pool_sentInSending (i : SlotNo) : pool (sentInSending i s) = pool s := by
  unfold sentInSending
  simp only []
  split
  · simp
  · exact pool_ite s (by simp) (by simp)

theorem pool_takeSent : pool (takeSent s) = pool s := by
  unfold takeSent
  split
  · exact pool_sentInSending s _
  · rfl

theorem pool_takeCollision : pool (takeCollision s) = pool s := pool_ite s rfl rfl
theorem pool_takeCutComplete : pool (takeCutComplete s) = pool s := pool_ite s (by simp) rfl

theorem pool_takeFrameStart : pool (takeFrameStart s) = pool s := by
  unfold takeFrameStart
  split <;> rfl

/-- An accepted frame counted, the engine in QUIET, what the attempt keeps of the reply kept (R102). -/
def replyKept (i : SlotNo) (f : FrameInfo) (s : State) : State :=
  let t := enterQuiet false (s.setStats { s.stats with repliesAccepted := bump s.stats.repliesAccepted })
  t.setEngine { t.engine with timer := t.engine.timer.stopped, reply := some (keptReply f (s.slot i).replyBuffer) }

/-- The copy of a reply claimed at the arbiter (R102). -/
def copyClaimed (b : BufNo) (length : Nat) (s : State) : State :=
  { s.setEngine { s.engine with copyOutstanding := true } with engineClaim := some (.copy b length) }

theorem acceptFrame_ends {i : SlotNo} {f : FrameInfo} {s : State} (h : (s.slot i).replyBuffer = none ∨ f.length = 0) :
    acceptFrame i f s = attemptEnd (replyResult f.function) (replyKept i f s) := by
  unfold acceptFrame
  cases hb : (s.slot i).replyBuffer with
  | none => simp only [replyKept, hb]
  | some b => simp only [replyKept, hb, if_pos (h.resolve_left (by simp [hb]))]

theorem acceptFrame_claims {i : SlotNo} {f : FrameInfo} {s : State} {b : BufNo} (hb : (s.slot i).replyBuffer = some b)
    (hf : f.length ≠ 0) : acceptFrame i f s = copyClaimed b f.length (replyKept i f s) := by
  unfold acceptFrame
  simp only [replyKept, copyClaimed, hb, if_neg hf]

theorem pool_replyKept (i : SlotNo) (f : FrameInfo) : pool (replyKept i f s) = pool s := rfl
theorem pool_copyClaimed (b : BufNo) (length : Nat) : pool (copyClaimed b length s) = pool s := rfl

theorem pool_acceptFrame (i : SlotNo) (f : FrameInfo) : pool (acceptFrame i f s) = pool s := by
  by_cases h : (s.slot i).replyBuffer = none ∨ f.length = 0
  · rw [acceptFrame_ends h, pool_attemptEnd, pool_replyKept]
  · obtain ⟨hb, hf⟩ := not_or.1 h
    obtain ⟨b, hb⟩ := Option.ne_none_iff_exists'.1 hb
    rw [acceptFrame_claims hb hf, pool_copyClaimed, pool_replyKept]

theorem pool_completeInReceiving (i : SlotNo) (f : FrameInfo) : pool (completeInReceiving i f s) = pool s := by
  unfold completeInReceiving
  split
  · rfl
  · rfl
  · exact pool_acceptFrame s i f

theorem pool_strayEnd (count : Stats → Stats) : pool (strayEnd count s) = pool s := pool_ite s rfl (pool_ite s rfl rfl)

theorem pool_takeFrameComplete (f : FrameInfo) : pool (takeFrameComplete f s) = pool s := by
  unfold takeFrameComplete
  split
  · exact pool_completeInReceiving s _ f
  · exact pool_strayEnd s id

theorem pool_takeBadFrame (r : BadReason) : pool (takeBadFrame r s) = pool s := by
  unfold takeBadFrame
  split
  · simp [badInReceiving]
  · exact pool_strayEnd s _

theorem pool_takeStuck : pool (takeStuck s) = pool s := by
  unfold takeStuck
  simp only []
  split <;> simp

theorem pool_takeRecovery : pool (takeRecovery s) = pool s := pool_ite s rfl rfl

@[simp] theorem pool_sentReport : pool (sentReport s) = pool s := by
  refine pool_withReport s fun r t u hu => ?_
  cases r <;> cases hu
  exact pool_takeSent t

@[simp] theorem pool_collisionReport : pool (collisionReport s) = pool s := by
  refine pool_withReport s fun r t u hu => ?_
  cases r <;> cases hu
  exact pool_takeCollision t

@[simp] theorem pool_cutCompleteReport : pool (cutCompleteReport s) = pool s := by
  refine pool_withReport s fun r t u hu => ?_
  cases r <;> cases hu
  exact pool_takeCutComplete t

@[simp] theorem pool_frameStartReport : pool (frameStartReport s) = pool s := by
  refine pool_withReport s fun r t u hu => ?_
  cases r <;> cases hu
  exact pool_takeFrameStart t

@[simp] theorem pool_frameCompleteReport : pool (frameCompleteReport s) = pool s := by
  refine pool_withReport s fun r t u hu => ?_
  cases r <;> cases hu
  exact pool_takeFrameComplete t _

@[simp] theorem pool_badFrameReport : pool (badFrameReport s) = pool s := by
  refine pool_withReport s fun r t u hu => ?_
  cases r <;> cases hu
  exact pool_takeBadFrame t _

@[simp] theorem pool_stuckReport : pool (stuckReport s) = pool s := by
  refine pool_withReport s fun r t u hu => ?_
  cases r <;> cases hu
  exact pool_takeStuck t

@[simp] theorem pool_recoveryReport : pool (recoveryReport s) = pool s := by
  refine pool_withReport s fun r t u hu => ?_
  cases r <;> cases hu
  exact pool_takeRecovery t

@[simp] theorem pool_tickTimer : pool (tickTimer s) = pool s :=
  pool_ite s (pool_ite s (by simp [noReply]) rfl) rfl

@[simp] theorem pool_replyTimerExpiry : pool (replyTimerExpiry s) = pool s :=
  pool_ite s (pool_tickTimer s) (pool_ite s rfl (pool_tickTimer _))

theorem pool_retryOrEnd (i : SlotNo) : pool (retryOrEnd i s) = pool s := pool_ite s (by simp) (by simp)

theorem pool_runOut : pool (runOut s) = pool s := by
  refine pool_ite s rfl ?_
  split
  · exact pool_retryOrEnd _ _
  · simp

@[simp] theorem pool_guardRunOut : pool (guardRunOut s) = pool s := pool_ite s (pool_runOut s) rfl

@[simp] theorem pool_lineReset (h : HostId) : pool (lineReset h s) = pool s := by
  unfold lineReset
  split
  case h_3 => exact pool_ite s (by simp) rfl
  all_goals simp

@[simp] theorem pool_grant (c : ExClass) (i : SlotNo) : pool (grant c i s) = pool s := pool_beginAttempt _ i true

@[simp] theorem pool_schedulerRun : pool (schedulerRun s) = pool s := by
  refine pool_ite s (pool_ite s ?_ rfl) rfl
  simp only []
  split
  · rfl
  · exact pool_grant _ _ _

end

/-! ## Ports, settings and time outside the pool -/

section
variable (s : State)

@[simp] theorem pool_noticeCodeRead (h : HostId) : pool (noticeCodeRead h s) = pool s := by
  unfold noticeCodeRead
  split <;> rfl

@[simp] theorem pool_setSettings (h : HostId) : pool (setSettings h s) = pool s := pool_ite s rfl (pool_ite s rfl rfl)

theorem pool_hostPortResetAssert (h : HostId) : pool (hostPortResetAssert h s) = pool s := by
  have habandon : pool (abandonAccess h s) = pool s := by
    unfold abandonAccess
    split
    · exact pool_ite s rfl rfl
    · rfl
  refine pool_ite s rfl ?_
  split
  · rfl
  · exact habandon

theorem pool_hostPortResetRelease (h : HostId) : pool (hostPortResetRelease h s) = pool s := by
  refine pool_ite s rfl ?_
  split <;> rfl

theorem pool_portResetPart (h : HostId) : pool (portResetPart h s) = pool s := pool_ite s rfl rfl
theorem pool_powerOnResetRelease : pool (powerOnResetRelease s) = pool s := pool_ite s rfl rfl

@[simp] theorem pool_tickEngine : pool (tickEngine s) = pool s := pool_ite s rfl rfl
@[simp] theorem pool_tick : pool (tick s) = pool s := pool_ite s rfl (pool_tickEngine s)
@[simp] theorem pool_clockPeriod : pool (clockPeriod s) = pool s := pool_ite s rfl rfl

end

end Sys2Proof.BufferPool
end

section
/-! The operations that change holders, attachments or the free list keep the pool consistent (R40, R41, R44, R47, R48, R53), and so do the commands made of them. -/

namespace Sys2Proof.BufferPool

open Sys2Proof.Machine

/-! ## What the pool's operations make of holders and attachments -/

section
variable (s : State)

theorem unlend_holder (a : Attacher) (b : BufNo) :
    (unlend a s).holder b = if returnedBy a s b then .free else s.holder b := tget_tmap _ _ b

theorem unlend_attachment (a : Attacher) (b : BufNo) :
    (unlend a s).attachment b = if attachedTo a (s.attachment b) then none else s.attachment b := tget_tmap _ _ b

theorem resetBuffers_holder (h : HostId) (b : BufNo) : (resetBuffers h s).holder b =
    if s.holder b = .host h then (if givenBack h s b then .free else .orphaned) else s.holder b := tget_tmap _ _ b

theorem resetBuffers_attachment (h : HostId) (b : BufNo) :
    (resetBuffers h s).attachment b = if givenBack h s b then none else s.attachment b := tget_tmap _ _ b

theorem returnedBy_iff (a : Attacher) (b : BufNo) :
    returnedBy a s b = true ↔ attachedTo a (s.attachment b) = true ∧ s.holder b = .orphaned := by simp [returnedBy]

theorem givenBack_iff (h : HostId) (b : BufNo) :
    givenBack h s b = true ↔ s.holder b = .host h ∧ staysOnLine s (s.attachment b) = false := by simp [givenBack]

end

/-! ## Buffers that join the free list -/

/-- Buffers that were not FREE and become FREE and unattached join the free list's tail; no other buffer becomes FREE or attached, and none ORPHANED without an attachment. -/
theorem poolOk_join {s t : State} {back : List BufNo} (hlist : t.freeList = s.freeList ++ back) (hnodup : back.Nodup)
    (hback : ∀ b ∈ back, s.holder b ≠ .free ∧ t.holder b = .free ∧ t.attachment b = none)
    (hfree : ∀ b ∉ back, t.holder b = .free ↔ s.holder b = .free)
    (hnone : ∀ b, s.attachment b = none → t.attachment b = none)
    (horphaned : ∀ b ∉ back, t.holder b = .orphaned → (s.holder b = .orphaned → s.attachment b ≠ none) →
      t.attachment b ≠ none)
    (hs : PoolOk s) : PoolOk t := by
  obtain ⟨nodup, listed, free, orphaned⟩ := hs
  refine ⟨?_, fun b => ?_, fun b hb => ?_, fun b hb => ?_⟩
  · rw [hlist, List.nodup_append]
    refine ⟨nodup, hnodup, ?_⟩
    rintro b hb _ hb' rfl
    exact (hback b hb').1 ((listed b).1 hb)
  · rw [hlist, List.mem_append, listed]
    by_cases hbk : b ∈ back
    · simp [hbk, hback b hbk]
    · simp [hbk, hfree b hbk]
  · by_cases hbk : b ∈ back
    · exact (hback b hbk).2.2
    · exact hnone b (free b ((hfree b hbk).1 hb))
  · by_cases hbk : b ∈ back
    · simp [(hback b hbk).2.1] at hb
    · exact horphaned b hbk hb (orphaned b)

/-- The buffers of a test, in ascending order. -/
theorem mem_filter_finRange (p : BufNo → Bool) (b : BufNo) : b ∈ (List.finRange 96).filter p ↔ p b = true := by simp

/-- An unlend keeps the pool consistent (R44, R55). -/
theorem unlend_keeps (a : Attacher) (s : State) : KeepsPool s (unlend a s) := by
  refine ⟨rfl, poolOk_join rfl ((List.nodup_finRange 96).filter _) (fun b hb => ?_) (fun b hb => ?_) (fun b hb => ?_)
    fun b hb ht hkept => ?_⟩
  · rw [mem_filter_finRange] at hb
    obtain ⟨hatt, hold⟩ := (returnedBy_iff s a b).1 hb
    rw [unlend_holder, if_pos hb, unlend_attachment, if_pos hatt, hold]
    simp
  · rw [mem_filter_finRange] at hb
    rw [unlend_holder, if_neg hb]
  · rw [unlend_attachment, hb, ite_self]
  · rw [mem_filter_finRange] at hb
    rw [unlend_holder, if_neg hb] at ht
    rw [unlend_attachment, if_neg fun hatt => hb ((returnedBy_iff s a b).2 ⟨hatt, ht⟩)]
    exact hkept ht

/-- The pool's part of a release keeps it consistent (R53). -/
theorem resetBuffers_keeps (h : HostId) (s : State) : KeepsPool s (resetBuffers h s) := by
  refine ⟨rfl, poolOk_join rfl ((List.nodup_finRange 96).filter _) (fun b hb => ?_) (fun b hb => ?_) (fun b hb => ?_)
    fun b hb ht hkept => ?_⟩
  · rw [mem_filter_finRange] at hb
    obtain ⟨hhost, -⟩ := (givenBack_iff s h b).1 hb
    rw [resetBuffers_holder, if_pos hhost, if_pos hb, resetBuffers_attachment, if_pos hb, hhost]
    simp
  · rw [mem_filter_finRange] at hb
    rw [resetBuffers_holder, if_neg hb]
    split
    · next hhost => simp [hhost]
    · rfl
  · rw [resetBuffers_attachment, hb, ite_self]
  · rw [mem_filter_finRange] at hb
    rw [resetBuffers_attachment, if_neg hb]
    by_cases hhost : s.holder b = .host h
    · intro hnone
      exact hb ((givenBack_iff s h b).2 ⟨hhost, by rw [hnone]; rfl⟩)
    · rw [resetBuffers_holder, if_neg hhost] at ht
      exact hkept ht

theorem answer_keeps (h : HostId) (r : ResultCode) (s : State) : KeepsPool s (answer h r s) := .of_pool rfl

/-- BUF_FREE keeps the pool consistent (R48). -/
theorem bufFree_keeps (h : HostId) (s : State) : KeepsPool s (bufFree h s) := by
  unfold bufFree
  split
  · exact answer_keeps h _ s
  · next b _ =>
    split_ifs with hhost hatt
    · exact answer_keeps h _ s
    · exact answer_keeps h _ s
    · have hhost : s.holder b = .host h := not_not.1 hhost
      have hatt : s.attachment b = none := by simpa using hatt
      have hholder : ∀ c, tget (tput s.holders b .free) c = if b = c then .free else s.holder c :=
        fun c => tget_tput _ b c _
      refine KeepsPool.then_same (t := { s with holders := tput s.holders b .free, freeList := s.freeList ++ [b] })
        ⟨rfl, poolOk_join (back := [b]) rfl (List.nodup_singleton b) (fun c hc => ?_) (fun c hc => ?_) (fun _ => id)
          fun c hc ht hkept => ?_⟩ rfl
      · obtain rfl := List.mem_singleton.1 hc
        exact ⟨by simp [hhost], (hholder c).trans (if_pos rfl), hatt⟩
      · rw [State.holder, hholder, if_neg fun he => hc (by simp [he])]
      · rw [State.holder, hholder, if_neg fun he => hc (by simp [he])] at ht
        exact hkept ht

/-! ## Allocation and lending -/

/-- A buffer of the free list's head goes to a host (R47). -/
theorem allocate_keeps {h : HostId} {b : BufNo} {rest : List BufNo} {s : State} (hl : s.freeList = b :: rest) :
    KeepsPool s (allocate h b rest s) := by
  refine KeepsPool.then_same (t := { s with
    freeList := rest, holders := tput s.holders b (.host h), attached := tput s.attached b none })
    ⟨rfl, fun ⟨nodup, listed, free, orphaned⟩ => ?_⟩ (pool_ite _ rfl rfl)
  rw [hl, List.nodup_cons] at nodup
  simp only [hl, List.mem_cons] at listed
  simp only [PoolOk, State.holder, State.attachment, tget_tput] at *
  refine ⟨nodup.2, fun c => ?_, fun c hc => ?_, fun c hc => ?_⟩
  · by_cases hc : b = c
    · simpa [← hc] using nodup.1
    · rw [if_neg hc, ← listed, or_iff_right (Ne.symm hc)]
  · split_ifs at hc ⊢
    exact free c hc
  · split_ifs at hc ⊢
    exact orphaned c hc

theorem bufAlloc_keeps (h : HostId) (s : State) : KeepsPool s (bufAlloc h s) := by
  unfold bufAlloc
  split_ifs
  · exact answer_keeps h _ s
  · split
    · exact answer_keeps h _ s
    · next hl => exact allocate_keeps hl

/-- The buffers named are a host's: neither FREE nor ORPHANED. -/
def Held (request reply : Option BufNo) (s : State) : Prop :=
  ∀ b, request = some b ∨ reply = some b → ∃ h, s.holder b = .host h

/-- A lend of a host's buffers keeps the pool consistent (R41, R43). -/
theorem lend_keeps {request reply : Option BufNo} {s : State} (a : Attacher) (hheld : Held request reply s) :
    KeepsPool s (lend a request reply s) := by
  obtain ⟨-, hatt⟩ := lend_spec a request reply s
  refine ⟨rfl, fun ⟨nodup, listed, free, orphaned⟩ => ⟨nodup, listed, fun b hb => ?_, fun b hb => ?_⟩⟩
  · have hfree : s.holder b = .free := hb
    rw [hatt, if_neg fun hnamed => ?_]
    · exact free b hfree
    · obtain ⟨h, hhost⟩ := hheld b hnamed
      simp [hfree] at hhost
  · rw [hatt]
    split
    · simp
    · exact orphaned b hb

/-- A field that names a buffer of the host names one that it holds (R42). -/
theorem fieldHeld_some {h : HostId} {f : Byte} {s : State} {b : BufNo} (hf : fieldHeld h (bufferField f) s = true)
    (hb : (bufferField f).getD none = some b) : s.holder b = .host h := by
  cases hfield : bufferField f with
  | none => simp [hfield] at hb
  | some o =>
    obtain rfl : o = some b := by simpa [hfield] using hb
    simpa [hfield, fieldHeld] using hf

theorem held_of_fields {h : HostId} {f g : Byte} {s : State} (hf : fieldHeld h (bufferField f) s = true)
    (hg : fieldHeld h (bufferField g) s = true) : Held ((bufferField f).getD none) ((bufferField g).getD none) s :=
  fun _ hb => ⟨h, hb.elim (fieldHeld_some hf) (fieldHeld_some hg)⟩

/-- A SUBMIT that passes its checks names buffers of the host alone (R63). -/
theorem submit_held {h : HostId} {s : State} (hn : submitRefusal h s = none) :
    Held (submitRecord h s).requestBuffer (submitRecord h s).replyBuffer s := by
  unfold submitRefusal at hn
  simp only [] at hn
  split_ifs at hn with _ _ _ hfields
  simp only [Bool.not_eq_true', Bool.not_eq_false, Bool.and_eq_true] at hfields
  exact held_of_fields hfields.1 hfields.2

theorem submit_keeps (h : HostId) (s : State) : KeepsPool s (submit h s) := by
  unfold submit
  split
  · exact answer_keeps h _ s
  · next hn =>
    split
    · exact answer_keeps h _ s
    · next i _ =>
      have hplaced : KeepsPool s (place i (submitRecord h s) s) := .of_pool (pool_place s _ _)
      have hheld : Held (submitRecord h s).requestBuffer (submitRecord h s).replyBuffer (place i (submitRecord h s) s) :=
        submit_held hn
      exact (hplaced.trans (lend_keeps (.slot i) hheld)).then_same (pool_answerWith _ _ _ _ _)

/-- A POLL_START that passes its checks names buffers of the host alone (R130). -/
theorem pollStart_held {h : HostId} {s : State} (hn : pollStartRefusal h s = none) :
    Held (pollStartEntry h s).requestBuffer (pollStartEntry h s).snapshotBuffer s := by
  unfold pollStartRefusal at hn
  simp only [] at hn
  split_ifs at hn with _ _ hfields
  simp only [Bool.not_eq_true', Bool.not_eq_false, Bool.and_eq_true] at hfields
  exact held_of_fields hfields.1 hfields.2

theorem pollStart_keeps (h : HostId) (s : State) : KeepsPool s (pollStart h s) := by
  unfold pollStart
  split
  · exact answer_keeps h _ s
  · next hn =>
    split
    · exact answer_keeps h _ s
    · next e _ =>
      have hfilled : KeepsPool s (s.setEntry e (pollStartEntry h s)) := .of_pool rfl
      have hheld : Held (pollStartEntry h s).requestBuffer (pollStartEntry h s).snapshotBuffer
          (s.setEntry e (pollStartEntry h s)) := pollStart_held hn
      exact (hfilled.trans (lend_keeps (.entry e) hheld)).then_same
        ((pool_answerWith _ _ _ _ _).trans (pool_ite _ (pool_due _ e) rfl))

/-! ## Unlends at the end of exchanges and entries -/

section
variable (s : State)

theorem enterDone_keeps (i : SlotNo) (x : Exchange) : KeepsPool s (enterDone i x s) := by
  have hnumbered : KeepsPool s { s with finish := s.finish + 1 } := .of_pool rfl
  exact (hnumbered.trans (unlend_keeps (.slot i) _)).then_same (pool_ite _ (pool_post _ _ _) rfl)

theorem takeEnd_keeps (e : ExchangeEnd) : KeepsPool s (takeEnd e s) := by
  have htaken : KeepsPool s (s.setHand { s.hand with exchangeEnd := none }) := .of_pool rfl
  unfold takeEnd
  simp only []
  split
  · exact htaken.trans (enterDone_keeps _ _ _)
  · exact (htaken.trans (unlend_keeps _ _)).then_same rfl
  all_goals exact .of_pool rfl

theorem exchangeEndTaken_keeps : KeepsPool s (exchangeEndTaken s) := by
  unfold exchangeEndTaken
  split
  · exact .refl s
  · exact takeEnd_keeps s _

theorem cancelSlot_keeps (h : HostId) (i : SlotNo) : KeepsPool s (cancelSlot h i s) := by
  unfold cancelSlot
  simp only []
  split_ifs
  · exact answer_keeps h _ s
  · split
    · exact (enterDone_keeps s _ _).then_same rfl
    all_goals exact .of_pool rfl

theorem settleEnd_keeps (i : SlotNo) : KeepsPool s (settleEnd i s) := by
  unfold settleEnd
  split
  · exact .refl s
  · split_ifs
    · exact takeEnd_keeps s _
    · exact .refl s

theorem cancel_keeps (h : HostId) : KeepsPool s (cancel h s) := by
  unfold cancel
  split
  · exact answer_keeps h _ s
  · exact (settleEnd_keeps s _).trans (cancelSlot_keeps _ h _)

/-- A pass over a list keeps the pool if each of its steps does. -/
theorem foldl_keeps {α : Type} {f : State → α → State} (hf : ∀ s a, KeepsPool s (f s a)) :
    ∀ (l : List α) (s : State), KeepsPool s (l.foldl f s)
  | [], s => .refl s
  | a :: l, s => (hf s a).trans (foldl_keeps hf l _)

theorem flushSlot_keeps (n : StationNo) (i : SlotNo) : KeepsPool s (flushSlot n s i) := by
  unfold flushSlot
  split_ifs
  · exact enterDone_keeps s i _
  · exact .refl s

theorem stationFlush_keeps : KeepsPool s (stationFlush s) := by
  unfold stationFlush
  split
  · exact .refl s
  · next n _ =>
    have htaken : KeepsPool s (s.setHand { s.hand with flush := none }) := .of_pool rfl
    exact htaken.trans (foldl_keeps (fun t i => flushSlot_keeps t n i) _ _)

theorem revive_keeps (h : HostId) : KeepsPool s (revive h s) := by
  unfold revive
  split
  · exact answer_keeps h _ s
  · next n _ =>
    have hsettled : KeepsPool s (settleFlush n s) := by
      unfold settleFlush
      split_ifs
      · exact stationFlush_keeps s
      · exact .refl s
    split_ifs
    · exact hsettled.then_same rfl
    · exact answer_keeps h _ s

theorem resetSlot_keeps (h : HostId) (i : SlotNo) : KeepsPool s (resetSlot h s i) := by
  unfold resetSlot
  simp only []
  split_ifs
  · exact .refl s
  · split
    · exact (unlend_keeps _ s).then_same rfl
    all_goals exact .of_pool rfl

theorem freeEntry_keeps (e : EntryNo) : KeepsPool s (freeEntry e s) := (unlend_keeps _ s).then_same rfl

theorem takeInstEnd_keeps (d : InstanceEnd) : KeepsPool s (takeInstEnd d s) := by
  have htaken : KeepsPool s (s.setHand { s.hand with instEnd := none }) := .of_pool rfl
  unfold takeInstEnd
  simp only []
  split
  · exact htaken.then_same (pool_recordEnd _ d)
  · exact htaken.trans (freeEntry_keeps _ _)
  · exact htaken.trans (freeEntry_keeps _ _)
  · exact htaken

theorem instanceEnd_keeps : KeepsPool s (instanceEnd s) := by
  unfold instanceEnd
  split
  · exact .refl s
  · exact takeInstEnd_keeps s _

theorem stopArmed_keeps (h : HostId) (e : EntryNo) : KeepsPool s (stopArmed h e s) := by
  unfold stopArmed
  split
  · exact (freeEntry_keeps s e).then_same rfl
  · next i _ =>
    split_ifs
    · exact .of_pool rfl
    · have hleft : KeepsPool s (s.setSlot i freeExchange) := .of_pool rfl
      exact (hleft.trans (freeEntry_keeps _ e)).then_same rfl
    · exact (freeEntry_keeps s e).then_same rfl

theorem pollStop_keeps (h : HostId) : KeepsPool s (pollStop h s) := by
  unfold pollStop
  split
  · exact answer_keeps h _ s
  · next e _ =>
    have hsettled : KeepsPool s (settleInstEnd e s) := by
      unfold settleInstEnd
      split
      · exact .refl s
      · split_ifs
        · exact takeInstEnd_keeps s _
        · exact .refl s
    split_ifs
    · exact answer_keeps h _ s
    · refine hsettled.trans ?_
      unfold stopEntry
      split_ifs
      · exact answer_keeps h _ _
      · exact answer_keeps h _ _
      · exact stopArmed_keeps _ h e

theorem resetEntries_keeps (h : HostId) : KeepsPool s (resetEntries h s) := by
  refine KeepsPool.then_same (t := settleOwnInstEnd h s) ?_ rfl
  unfold settleOwnInstEnd
  split
  · exact .refl s
  · split_ifs
    · exact takeInstEnd_keeps s _
    · exact .refl s

end

end Sys2Proof.BufferPool
end

section
/-! The Buffer Pool along every command and every step (R39 to R41): which may change a byte, and that the pool stays consistent. -/

namespace Sys2Proof.BufferPool

open Sys2Proof.Machine

/-! ## The commands issued at a port -/

section
variable (h : HostId) (s : State)

theorem issue_keeps (c : HostCommand) : KeepsPool s (issue h c s) := by
  cases c with
  | bufAlloc => exact bufAlloc_keeps h s
  | bufFree => exact bufFree_keeps h s
  | submit => exact submit_keeps h s
  | cancel => exact cancel_keeps s h
  | revive => exact revive_keeps s h
  | pollStart => exact pollStart_keeps h s
  | pollStop => exact pollStop_keeps s h
  | readExchange => exact .of_pool (pool_readExchange s h)
  | readStation => exact .of_pool (pool_readStation s h)
  | subscribe => exact .of_pool (pool_subscribe s h)
  | unsubscribe => exact .of_pool (pool_unsubscribe s h)
  | hold => exact .of_pool (pool_hold s h)
  | release => exact .of_pool (pool_release s h)
  | pollRetime => exact .of_pool (pool_pollRetime s h)
  | readPoll => exact .of_pool (pool_readPoll s h)
  | popCompletion => exact .of_pool (pool_popCompletion s h)
  | setSettings => exact .of_pool (pool_setSettings s h)
  | readSettings => exact .of_pool rfl
  | lineReset => exact .of_pool (pool_lineReset s h)
  | readLine => exact .of_pool rfl
  | clearStats => exact .of_pool rfl

theorem commandWrite_keeps (code : Byte) : KeepsPool s (commandWrite h code s) := by
  unfold commandWrite
  split
  · exact answer_keeps h _ s
  · exact issue_keeps h s _

theorem portRegisterWrite_keeps (location : BitVec 7) (value : Byte) :
    KeepsPool s (portRegisterWrite h location value s) := by
  unfold portRegisterWrite locationWrite
  split_ifs
  · exact .of_pool rfl
  · exact .of_pool rfl
  · exact commandWrite_keeps h s value
  · exact .of_pool rfl
  · split
    · exact .of_pool rfl
    · exact .refl s

end

/-! ## Every command -/

/-- An answer that goes on to a state which keeps the pool. -/
def NextKeeps (s : State) (o : Host.Outcome State Fault Refusal) : Prop := ∃ t, o = .next t ∧ KeepsPool s t

section
variable {s : State}

theorem nextKeeps_next {t : State} (h : KeepsPool s t) : NextKeeps s (.next t) := ⟨t, rfl, h⟩

/-- An access that is served, abandoned, or waits at its port. -/
theorem nextKeeps_served {c : Instr} {h : HostId} {act : State → State} (ha : KeepsPool s (act s)) :
    NextKeeps s (served c h s act) := by
  unfold served
  split_ifs
  · exact nextKeeps_next ha
  · exact nextKeeps_next (.refl s)
  · exact nextKeeps_next (.of_pool rfl)

theorem nextKeeps_internal {act : State → State} (ha : KeepsPool s (act s)) : NextKeeps s (internal s act) := by
  unfold internal
  split_ifs
  · exact nextKeeps_next (.refl s)
  · exact nextKeeps_next ha

/-- A part of a release, by what the block does in it. -/
theorem nextKeeps_releasePart {h : HostId} {part next : ReleasePart} {act : State → State} (ha : KeepsPool s (act s)) :
    NextKeeps s (internal s (releasePart h part next act)) := by
  refine nextKeeps_internal ?_
  unfold releasePart
  split_ifs
  · exact ha.then_same rfl
  · exact .refl s

end

/-- Every command but the arbiter's service and power-on reset leaves the bytes and keeps the pool consistent. -/
theorem exec_keeps {c : Instr} (s : State) (hserve : c ≠ .arbiterServe) (hreset : c ≠ .powerOnReset) :
    NextKeeps s (exec c s) := by
  cases c with
  | arbiterServe => exact absurd rfl hserve
  | powerOnReset => exact absurd rfl hreset
  | bufAlloc h => exact nextKeeps_served (bufAlloc_keeps h s)
  | bufFree h => exact nextKeeps_served (bufFree_keeps h s)
  | submit h => exact nextKeeps_served (submit_keeps h s)
  | cancel h => exact nextKeeps_served (cancel_keeps s h)
  | readExchange h => exact nextKeeps_served (.of_pool (pool_readExchange s h))
  | readStation h => exact nextKeeps_served (.of_pool (pool_readStation s h))
  | subscribe h => exact nextKeeps_served (.of_pool (pool_subscribe s h))
  | unsubscribe h => exact nextKeeps_served (.of_pool (pool_unsubscribe s h))
  | revive h => exact nextKeeps_served (revive_keeps s h)
  | hold h => exact nextKeeps_served (.of_pool (pool_hold s h))
  | release h => exact nextKeeps_served (.of_pool (pool_release s h))
  | pollStart h => exact nextKeeps_served (pollStart_keeps h s)
  | pollRetime h => exact nextKeeps_served (.of_pool (pool_pollRetime s h))
  | pollStop h => exact nextKeeps_served (pollStop_keeps s h)
  | readPoll h => exact nextKeeps_served (.of_pool (pool_readPoll s h))
  | popCompletion h => exact nextKeeps_served (.of_pool (pool_popCompletion s h))
  | setSettings h => exact nextKeeps_served (.of_pool (pool_setSettings s h))
  | readSettings h => exact nextKeeps_served (.of_pool rfl)
  | lineReset h => exact nextKeeps_served (.of_pool (pool_lineReset s h))
  | readLine h => exact nextKeeps_served (.of_pool rfl)
  | clearStats h => exact nextKeeps_served (.of_pool rfl)
  | badCommand h code => exact nextKeeps_served (commandWrite_keeps h s code)
  | noticeCodeRead h => exact nextKeeps_served (.of_pool (pool_noticeCodeRead s h))
  | noticeMaskWrite h value => exact nextKeeps_served (.of_pool rfl)
  | portStatusRead h => exact nextKeeps_served (.of_pool rfl)
  | portRegisterWrite h location value => exact nextKeeps_served (portRegisterWrite_keeps h s location value)
  | windowRead h offset => exact nextKeeps_served (.of_pool rfl)
  | windowWrite h offset value => exact nextKeeps_served (.of_pool rfl)
  | hostPortResetAssert h => exact nextKeeps_next (.of_pool (pool_hostPortResetAssert s h))
  | hostPortResetRelease h => exact nextKeeps_next (.of_pool (pool_hostPortResetRelease s h))
  | xtabResetPart h => exact nextKeeps_releasePart (foldl_keeps (fun t i => resetSlot_keeps t h i) _ s)
  | bpoolResetPart h => exact nextKeeps_releasePart (resetBuffers_keeps h s)
  | plstResetPart h => exact nextKeeps_releasePart (resetEntries_keeps s h)
  | stabResetPart h => exact nextKeeps_releasePart (.of_pool (pool_resetStations s h))
  | cqResetPart h => exact nextKeeps_releasePart (.of_pool rfl)
  | nctlResetPart h => exact nextKeeps_releasePart (.of_pool rfl)
  | portResetPart h => exact nextKeeps_internal (.of_pool (pool_portResetPart s h))
  | tick => exact nextKeeps_internal (.of_pool (pool_tick s))
  | replyTimerExpiry => exact nextKeeps_internal (.of_pool (pool_replyTimerExpiry s))
  | leaseExpiry n => exact nextKeeps_internal (.of_pool (pool_leaseExpiry s n))
  | pollDue e => exact nextKeeps_internal (.of_pool (pool_pollDue s e))
  | guardRunOut => exact nextKeeps_internal (.of_pool (pool_guardRunOut s))
  | schedulerRun => exact nextKeeps_internal (.of_pool (pool_schedulerRun s))
  | openingBreakEnd => exact nextKeeps_internal (.of_pool (pool_openingBreakEnd s))
  | characterSent => exact nextKeeps_internal (.of_pool (pool_characterSent s))
  | echoCollision => exact nextKeeps_internal (.of_pool (pool_echoCollision s))
  | frameSent => exact nextKeeps_internal (.of_pool (pool_frameSent s))
  | cutBreakEnd => exact nextKeeps_internal (.of_pool (pool_cutBreakEnd s))
  | breakDetected => exact nextKeeps_internal (.of_pool (pool_breakDetected s))
  | breakEnd => exact nextKeeps_internal (.of_pool (pool_breakEnd s))
  | characterTaken value => exact nextKeeps_internal (.of_pool (pool_characterTaken s value))
  | framingError => exact nextKeeps_internal (.of_pool (pool_framingError s))
  | gapLimit => exact nextKeeps_internal (.of_pool (pool_gapLimit s))
  | stuckDetected => exact nextKeeps_internal (.of_pool (pool_stuckDetected s))
  | lineRecovered => exact nextKeeps_internal (.of_pool (pool_lineRecovered s))
  | sentReport => exact nextKeeps_internal (.of_pool (pool_sentReport s))
  | collisionReport => exact nextKeeps_internal (.of_pool (pool_collisionReport s))
  | cutCompleteReport => exact nextKeeps_internal (.of_pool (pool_cutCompleteReport s))
  | frameStartReport => exact nextKeeps_internal (.of_pool (pool_frameStartReport s))
  | frameCompleteReport => exact nextKeeps_internal (.of_pool (pool_frameCompleteReport s))
  | badFrameReport => exact nextKeeps_internal (.of_pool (pool_badFrameReport s))
  | stuckReport => exact nextKeeps_internal (.of_pool (pool_stuckReport s))
  | recoveryReport => exact nextKeeps_internal (.of_pool (pool_recoveryReport s))
  | exchangeEndTaken => exact nextKeeps_internal (exchangeEndTaken_keeps s)
  | exchangeEndReport => exact nextKeeps_internal (.of_pool (pool_exchangeEndReport s))
  | stationFlush => exact nextKeeps_internal (stationFlush_keeps s)
  | instanceEnd => exact nextKeeps_internal (instanceEnd_keeps s)
  | halfBitSample => exact nextKeeps_internal (.of_pool (pool_halfBitSample s))
  | markToSpaceEdge => exact nextKeeps_next (.of_pool (pool_markToSpaceEdge s))
  | spaceToMarkEdge => exact nextKeeps_next (.of_pool (pool_spaceToMarkEdge s))
  | powerOnResetRelease => exact nextKeeps_next (.of_pool (pool_powerOnResetRelease s))

/-- Settles O11: every other command leaves the memory as it is. -/
theorem bufferBytesChangeOnlyAtTheArbiter : Obligations.BufferBytesChangeOnlyAtTheArbiter := by
  intro c s t hserve hreset ht a
  obtain ⟨u, hu, hkeeps⟩ := exec_keeps s hserve hreset
  obtain rfl : u = t := by simpa [hu] using ht
  rw [hkeeps.mem]

/-! ## The arbiter's service and power-on reset -/

section
variable {s : State}

/-- A service changes bytes and what it answers, never a holder, an attachment or the free list. -/
theorem serveEngine_ok (c : EngineClaim) (hs : PoolOk s) : PoolOk (serveEngine c s) := by
  cases c with
  | fetch b offset => exact poolOk_congr rfl rfl rfl hs
  | copy b length => exact (KeepsPool.of_pool (pool_attemptEnd _ _)).ok (poolOk_congr rfl rfl rfl hs)

theorem serveClaim_ok (h : HostId) (c : PortClaim) (hs : PoolOk s) : PoolOk (serveClaim h c s) := by
  cases c with
  | read offset =>
    refine (KeepsPool.of_pool (s := s) ?_).ok hs
    simp only [serveClaim, serveRead]
    split <;> rfl
  | write offset value =>
    simp only [serveClaim, serveWrite]
    split <;> exact poolOk_congr rfl rfl rfl hs
  | clear b owned free => exact poolOk_congr rfl rfl rfl hs

theorem arbiterServe_ok (hs : PoolOk s) : PoolOk (arbiterServe s) := by
  rcases arbiterServe_cases s with ⟨-, h⟩ | ⟨c, -, -, h⟩ | ⟨k, c, -, -, -, -, h⟩ | ⟨-, -, -, h⟩ <;> rw [h]
  · exact hs
  · exact serveEngine_ok c (poolOk_congr rfl rfl rfl hs)
  · exact serveClaim_ok k c (poolOk_congr rfl rfl rfl hs)
  · exact hs

/-- At power-on every buffer is FREE, and the free list names each once (R40, R45). -/
theorem reset_poolOk : PoolOk State.reset :=
  ⟨List.nodup_finRange 96, fun b => iff_of_true (List.mem_finRange b) (FieldLine.reset_holder b),
    fun b _ => FieldLine.reset_attachment b, fun b hb => by simp at hb⟩

/-! ## Every step -/

theorem exec_ok {c : Instr} {t : State} (hs : PoolOk s) (ht : exec c s = .next t) : PoolOk t := by
  by_cases hserve : c = .arbiterServe
  · subst hserve
    obtain rfl : (if s.porst then s else arbiterServe s) = t := Host.Outcome.next.inj ht
    split
    · exact hs
    · exact arbiterServe_ok hs
  by_cases hreset : c = .powerOnReset
  · subst hreset
    obtain rfl : powerOnReset s = t := Host.Outcome.next.inj ht
    exact poolOk_congr rfl rfl rfl reset_poolOk
  obtain ⟨u, hu, hkeeps⟩ := exec_keeps s hserve hreset
  obtain rfl : u = t := by simpa [hu] using ht
  exact hkeeps.ok hs

theorem serveWaiting_ok {h : HostId} {c : Instr} {t : State} (hs : PoolOk s) (ht : serveWaiting h c s = .next t) :
    PoolOk t := by
  obtain ⟨u, hu⟩ := FieldLine.exec_goesOn c (setWaiting h [] s)
  obtain rfl : setWaiting h (s.port h).waiting.tail u = t := by simpa [serveWaiting, hu] using ht
  have hempty : PoolOk (setWaiting h [] s) := poolOk_congr rfl rfl rfl hs
  have hleft : PoolOk u := exec_ok hempty hu
  exact poolOk_congr rfl rfl rfl hleft

theorem idleStep_ok {t : State} (hs : PoolOk s) (ht : idleStep s = .next t) : PoolOk t := by
  unfold idleStep at ht
  split at ht
  · exact exec_ok hs ht
  · split at ht
    · exact serveWaiting_ok hs ht
    · obtain rfl := Host.Outcome.next.inj ht
      exact (KeepsPool.of_pool (pool_clockPeriod s)).ok hs

end

/-- Settles O7: the command at the front of the queue, or what the part does of itself. -/
theorem poolStaysConsistent : Obligations.PoolStaysConsistent := by
  intro s t hs ht
  unfold step at ht
  split at ht
  · exact idleStep_ok hs ht
  · next c rest _ =>
    have htaken : PoolOk { s with pending := rest } := poolOk_congr rfl rfl rfl hs
    exact exec_ok htaken ht

end Sys2Proof.BufferPool
end

section
/-! BUF_ALLOC, BUF_FREE and window accesses (R46 to R51), and the order and the work of the memory arbiter's services (R51, R52, R102). -/

namespace Sys2Proof.BufferPool

open Sys2Proof.Machine

/-! ## BUF_FREE (R48) -/

theorem bufferOf_none {b : Byte} (h : 96 ≤ b.toNat) : bufferOf b = none := dif_neg (by omega)

section
variable {h : HostId} {s : State}

theorem bufFree_noBuffer (hb : 96 ≤ (arg h 0 s).toNat) : bufFree h s = answer h .badBuffer s := by
  rw [bufFree, bufferOf_none hb]

variable {b : BufNo} (hb : (arg h 0 s).toNat = b.val)
include hb

theorem bufFree_notHeld (hn : s.holder b ≠ .host h) : bufFree h s = answer h .badBuffer s := by
  rw [bufFree, bufferOf_some hb]
  exact if_pos hn

theorem bufFree_attached (hh : s.holder b = .host h) (ha : s.attachment b ≠ none) :
    bufFree h s = answer h .bufferBusy s := by
  rw [bufFree, bufferOf_some hb]
  simp [hh, Option.isSome_iff_ne_none, ha]

theorem bufFree_frees (hh : s.holder b = .host h) (ha : s.attachment b = none) : bufFree h s =
    answer h .ok { s with holders := tput s.holders b .free, freeList := s.freeList ++ [b] } := by
  rw [bufFree, bufferOf_some hb]
  simp [hh, ha]

end

/-- Settles O25, by the buffer that the argument names, its holder and its attachment. -/
theorem freeingAppendsAtTheTail : Obligations.FreeingAppendsAtTheTail := by
  intro h s hs
  rw [show exec (.bufFree h) s = .next (bufFree h s) from served_next hs]
  refine ⟨fun b hb => ⟨fun hh ha => ?_, fun hh ha => ?_, fun hn => ?_⟩, fun hb => ?_⟩
  · rw [bufFree_frees hb hh ha]
  · rw [bufFree_attached hb hh ha]
  · rw [bufFree_notHeld hb hn]
  · rw [bufFree_noBuffer hb]

/-! ## BUF_ALLOC (R46, R47, R49) -/

theorem ownedCount_eq (h : HostId) (s : State) :
    ownedCount h s = ((List.finRange 96).filter fun b => decide (s.holder b = .host h)).length :=
  List.countP_eq_length_filter

/-- The state with buffer `b` given to host `h` and its clearing claimed, before any notice (R47). -/
def allocated (h : HostId) (b : BufNo) (rest : List BufNo) (s : State) : State :=
  let t := { s with freeList := rest, holders := tput s.holders b (.host h), attached := tput s.attached b none }
  t.setPort h { t.port h with claim := some (.clear b (ownedCount h t) rest.length) }

section
variable {h : HostId} {b : BufNo} {rest : List BufNo} {s : State}

/-- A FREE buffer given to a host is one more for that host, and for no other (R46). -/
theorem ownedCount_allocated (hb : s.holder b = .free) (k : HostId) :
    ownedCount k (allocated h b rest s) = ownedCount k s + if k = h then 1 else 0 := by
  have hcount := tcount_tput (fun x => decide (x = Holder.host k)) s.holders b (.host h)
  rw [show tget s.holders b = .free from hb] at hcount
  have hgiven : (decide (Holder.host h = Holder.host k)).toNat = if k = h then 1 else 0 := by
    split <;> simp_all [eq_comm]
  exact hcount.trans (congrArg _ hgiven)

theorem allocated_port_self (hb : s.holder b = .free) :
    (allocated h b rest s).port h = { s.port h with claim := some (.clear b (ownedCount h s + 1) rest.length) } := by
  have hcount := ownedCount_allocated (rest := rest) hb h (h := h)
  rw [if_pos rfl] at hcount
  rw [← hcount]
  exact (State.setPort_port _ h _ h).trans (if_pos rfl)

theorem allocated_port_other {k : HostId} (hk : k ≠ h) : (allocated h b rest s).port k = s.port k :=
  (State.setPort_port _ h _ k).trans (if_neg hk.symm)

theorem allocated_holder (c : BufNo) :
    (allocated h b rest s).holder c = if b = c then .host h else s.holder c := tget_tput _ b c _

theorem allocated_attachment (c : BufNo) :
    (allocated h b rest s).attachment c = if b = c then none else s.attachment c := tget_tput _ b c _

/-- The notice of a low pool is given exactly where the free count falls from the threshold (R49). -/
theorem bufAlloc_allocates (hq : ownedCount h s < s.active.bufferQuota) (hl : s.freeList = b :: rest) :
    bufAlloc h s = if s.active.poolLow = rest.length + 1 then latchAll .poolLow (allocated h b rest s)
      else allocated h b rest s := by
  have hlow : s.active.poolLow ≤ freeCount s ∧ rest.length < s.active.poolLow ↔ s.active.poolLow = rest.length + 1 := by
    rw [freeCount, hl, List.length_cons]
    omega
  rw [bufAlloc, if_neg (by omega), hl]
  exact if_congr hlow rfl rfl

theorem bufAlloc_quota (hq : s.active.bufferQuota ≤ ownedCount h s) : bufAlloc h s = answer h .quota s := if_pos hq

theorem bufAlloc_noBuffer (hq : ownedCount h s < s.active.bufferQuota) (hl : s.freeList = []) :
    bufAlloc h s = answer h .noBuffer s := by
  rw [bufAlloc, if_neg (by omega), hl]

end

/-! ## The order of the services (R51) -/

section
variable {s : State}

theorem exec_arbiterServe (hp : s.porst = false) : exec .arbiterServe s = .next (arbiterServe s) := internal_spec.1 hp

/-- The engine's claim goes before every other, unless a claim in service keeps it out. -/
theorem arbiterServe_engine {c : EngineClaim} (hc : s.engineClaim = some c) (hk : ¬ EngineKeptOut s) :
    arbiterServe s = serveEngine c (takeEngineClaim c s) := by
  rw [arbiterServe, if_pos ((memoryFree_iff s).2 (.inl ⟨by simp [hc], hk⟩)), serveNext, hc]

theorem arbiterServe_port {h : HostId} {c : PortClaim} (hn : servedNext h s) (hc : (s.port h).claim = some c) :
    arbiterServe s = serveClaim h c (takeClaim h c s) := by
  obtain ⟨hfree, hengine, -⟩ := id hn
  rw [arbiterServe, if_pos ((memoryFree_iff s).2 (.inr ⟨hengine, hfree⟩)), serveNext, hengine]
  simp only [serveHost, nextPort_servedNext s h hn, hc]

theorem arbiterServe_held (hk : ¬ memoryFree s = true) : arbiterServe s = s := if_neg hk

theorem arbiterServe_noClaim (he : s.engineClaim = none) (hc : ∀ h, (s.port h).claim = none) : arbiterServe s = s := by
  have hnext : nextPort s = none := List.find?_eq_none.2 fun h _ => by simp [hc h]
  rcases arbiterServe_cases s with ⟨-, h⟩ | ⟨c, hsome, -⟩ | ⟨k, c, -, -, hsome, -⟩ | ⟨-, -, -, h⟩
  · exact h
  · simp [he] at hsome
  · simp [hnext] at hsome
  · exact h

end

/-! ## The bytes of a buffer after a write (R39) -/

section
variable {m : Memory} (hm : Memory.wf m) (b c : BufNo) (p : Fin 64)
include hm

theorem memRead_write_buffer (o : Fin 64) (v : Byte) :
    memRead (memWrite m (bufAddr b o.val) v) (bufAddr c p.val) = if c = b ∧ p = o then v else memRead m (bufAddr c p.val) := by
  rw [memRead_memWrite m _ v _ hm.1]
  simp only [bufAddr_inj p.isLt o.isLt, Fin.ext_iff]

/-- A run of bytes no longer than a buffer, written from its first byte on, fills that buffer's first bytes and no other's. -/
theorem memRead_writeBytes_buffer {bytes : List Byte} (hl : bytes.length ≤ 64) :
    memRead (memWriteBytes m (bufAddr b 0) bytes) (bufAddr c p.val) =
      if c = b then (bytes[p.val]?).getD (memRead m (bufAddr c p.val)) else memRead m (bufAddr c p.val) := by
  rw [memRead_memWriteBytes bytes m _ _ hm.1]
  by_cases hc : c = b
  · subst hc
    simp [bufAddr]
  · rw [if_neg hc]
    split
    · next hle =>
      have houtside : bytes.length ≤ bufAddr c p.val - bufAddr b 0 := by
        have hne : c.val ≠ b.val := fun h => hc (Fin.ext h)
        simp only [bufAddr, Config.bufferBytes] at hle ⊢
        omega
      rw [List.getElem?_eq_none houtside]
      rfl
    · rfl

/-- The clearing of a buffer (R47). -/
theorem memRead_cleared_buffer :
    memRead (memWriteBytes m (bufAddr b 0) (List.replicate Config.bufferBytes 0)) (bufAddr c p.val) =
      if c = b then 0x00 else memRead m (bufAddr c p.val) := by
  have hlength : (List.replicate Config.bufferBytes (0 : Byte)).length ≤ 64 := List.length_replicate.le
  rw [memRead_writeBytes_buffer hm b c p hlength,
    List.getElem?_replicate_of_lt (show p.val < Config.bufferBytes from p.isLt)]
  rfl

end

/-! ## A port's claim in service (R47, R50) -/

theorem answerWith_mem (h : HostId) (r : ResultCode) (off : Nat) (bytes : List Byte) (m : Memory) (s : State) :
    answerWith h r off bytes { s with mem := m } = { answerWith h r off bytes s with mem := m } := rfl

section
variable (h : HostId) (b : BufNo) (owned free : Nat) (s : State)

/-- A clearing writes 0x00 into its buffer alone (R47). -/
theorem serveClear_bufferByte (hm : Memory.wf s.mem) (c : BufNo) (p : Fin 64) :
    (serveClear h b owned free s).bufferByte c p.val = if c = b then 0x00 else s.bufferByte c p.val := by
  have hmem : (serveClear h b owned free s).mem = memWriteBytes s.mem (bufAddr b 0) (List.replicate Config.bufferBytes 0) := by
    rw [serveClear, answerWith_mem]
  rw [State.bufferByte, hmem, memRead_cleared_buffer hm b c p, State.bufferByte]

/-- But for the bytes, a clearing answers BUF_ALLOC (R47). -/
theorem serveClear_answers : { serveClear h b owned free s with mem := s.mem } =
    answerWith h .ok 0 [natByte b.val, natByte owned, natByte free] s := by
  rw [serveClear, answerWith_mem]
  rfl

end

theorem drive_refuseWindow (h : HostId) (b : Byte) (s : State) :
    drive h b (refuseWindow h s) = s.setPort h { s.port h with data := b, windowRefused := true } := by
  simp [drive, refuseWindow]

section
variable {h : HostId} {s : State}

/-- A port's record replaced while its claim goes into service. -/
theorem takeClaim_setPort (c : PortClaim) (x : Port) : (takeClaim h c s).setPort h x =
    { s.setPort h x with lastServed := h, service := some (serviceOf h c.clocks (s.port h)) } := by
  simp [takeClaim, State.setPort, beginService, serviceOf, Port.shown]

theorem takeClaim_port (c : PortClaim) : (takeClaim h c s).port h = { s.port h with claim := none } :=
  (State.setPort_port s h _ h).trans (if_pos rfl)

theorem takeClaim_windowBuffer (c : PortClaim) : windowBuffer h (takeClaim h c s) = windowBuffer h s := by
  rw [windowBuffer, takeClaim_port]
  rfl

variable {o : Fin 64} {v : Byte}

theorem serveRead_open {b : BufNo} (hw : windowBuffer h s = some b) :
    serveRead h o (takeClaim h (.read o) s) =
      { s.setPort h { s.port h with claim := none, data := s.bufferByte b o.val } with
        lastServed := h, service := some (serviceOf h 1 (s.port h)) } := by
  rw [serveRead, takeClaim_windowBuffer, hw]
  simp only [drive, takeClaim_setPort, takeClaim_port]
  rfl

theorem serveRead_refused (hw : windowBuffer h s = none) :
    serveRead h o (takeClaim h (.read o) s) =
      { s.setPort h { s.port h with claim := none, data := 0xFF, windowRefused := true } with
        lastServed := h, service := some (serviceOf h 1 (s.port h)) } := by
  rw [serveRead, takeClaim_windowBuffer, hw]
  simp only [drive_refuseWindow, takeClaim_setPort, takeClaim_port]
  rfl

theorem serveWrite_open {b : BufNo} (hw : windowBuffer h s = some b) :
    serveWrite h o v (takeClaim h (.write o v) s) =
      { takeClaim h (.write o v) s with mem := memWrite s.mem (bufAddr b o.val) v } := by
  rw [serveWrite, takeClaim_windowBuffer, hw]
  rfl

theorem serveWrite_refused (hw : windowBuffer h s = none) :
    serveWrite h o v (takeClaim h (.write o v) s) =
      { s.setPort h { s.port h with claim := none, windowRefused := true } with
        lastServed := h, service := some (serviceOf h 1 (s.port h)) } := by
  rw [serveWrite, takeClaim_windowBuffer, hw]
  simp only [refuseWindow, takeClaim_setPort, takeClaim_port]
  rfl

end

/-- Settles O24: the count by which the quota is judged, the cases of BUF_ALLOC, and the service of its clearing. -/
theorem allocationTakesTheHeadCleared : Obligations.AllocationTakesTheHeadCleared := by
  refine ⟨ownedCount_eq, fun h s hs => ?_, fun h b owned free s hp hn hc hm => ?_⟩
  · rw [show exec (.bufAlloc h) s = .next (bufAlloc h s) from served_next hs]
    refine ⟨fun hq => ?_, fun hq hl => ?_, fun b rest hq hl hb => ⟨allocated h b rest s, ?_, ?_, ?_, rfl, fun c hc => ?_,
      ?_, fun k hk => ?_, allocated_port_self hb, fun k hk => allocated_port_other hk, rfl⟩⟩
    · rw [bufAlloc_quota hq]
    · rw [bufAlloc_noBuffer hq hl]
    · rw [bufAlloc_allocates hq hl]
    · rw [allocated_holder, if_pos rfl]
    · rw [allocated_attachment, if_pos rfl]
    · rw [allocated_holder, if_neg hc.symm, allocated_attachment, if_neg hc.symm]
      exact ⟨rfl, rfl⟩
    · rw [ownedCount_allocated hb, if_pos rfl]
    · rw [ownedCount_allocated hb, if_neg hk, Nat.add_zero]
  · rw [exec_arbiterServe hp, arbiterServe_port hn hc, serveClaim]
    have hanswers := serveClear_answers h b owned free (takeClaim h (.clear b owned free) s)
    have hbytes := serveClear_bufferByte h b owned free (takeClaim h (.clear b owned free) s) hm
    generalize serveClear h b owned free (takeClaim h (.clear b owned free) s) = t at hanswers hbytes ⊢
    exact ⟨t, rfl, hbytes, hanswers⟩

/-- Settles O26: the claims placed, then their service by whether the window is open. -/
theorem windowIsJudgedAtService : Obligations.WindowIsJudgedAtService := by
  refine ⟨fun h o v s hs => ⟨served_next hs, served_next hs⟩, fun h o v s hp hn => ?_⟩
  rw [exec_arbiterServe hp]
  refine ⟨fun b hb hh ha => ?_, fun hrefused => ?_⟩
  · have hw : windowBuffer h s = some b := windowBuffer_open hb hh ha
    refine ⟨fun hc => ?_, fun hc hm => ?_⟩
    · rw [arbiterServe_port hn hc, serveClaim, serveRead_open hw]
    · rw [arbiterServe_port hn hc, serveClaim, serveWrite_open hw]
      exact ⟨_, rfl, fun c p => memRead_write_buffer hm b c p o v, rfl⟩
  · have hw : windowBuffer h s = none := windowBuffer_refused hrefused
    refine ⟨fun hc => ?_, fun hc => ?_⟩
    · rw [arbiterServe_port hn hc, serveClaim, serveRead_refused hw]
    · rw [arbiterServe_port hn hc, serveClaim, serveWrite_refused hw]

/-! ## The engine's claim in service (R52, R102) -/

/-- The state with a reply's payload copied, before its attempt ends (R102). -/
def copied (b : BufNo) (length : Nat) (s : State) : State :=
  { takeEngineClaim (.copy b length) s with
    mem := memWriteBytes s.mem (bufAddr b 0) (s.lif.frame.payload.toList.take length)
    engine := { s.engine with copyOutstanding := false } }

theorem serveEngine_copy {b : BufNo} {length : Nat} {s : State} {y : AcceptedReply} (hy : s.engine.reply = some y) :
    serveEngine (.copy b length) (takeEngineClaim (.copy b length) s) =
      attemptEnd (replyResult y.function) (copied b length s) := by
  have hresult : copiedResult (copied b length s) = replyResult y.function := by
    simp [copiedResult, copied, hy]
  rw [← hresult]
  rfl

/-- The payload byte that a copy of some length holds for an offset. -/
theorem payload_take (payload : Table Byte 64) (length : Nat) (p : Fin 64) :
    (payload.toList.take length)[p.val]? = if p.val < length then some (tget payload p) else none := by
  rw [List.getElem?_take]
  simp [tget]

/-- Settles O27: the engine's claim by its kind, then the cases in which nothing is served. -/
theorem engineClaimIsServedFirst : Obligations.EngineClaimIsServedFirst := by
  intro s hp
  rw [exec_arbiterServe hp]
  refine ⟨fun b o hc hk => ?_, fun b len y hc hk hlen hy hm => ?_, fun he hc => ?_, fun hc hk => ?_, fun he hb => ?_⟩
  · rw [arbiterServe_engine hc hk]
    rfl
  · rw [arbiterServe_engine hc hk, serveEngine_copy hy]
    refine ⟨copied b len s, rfl, fun c p => ?_, rfl⟩
    refine (memRead_writeBytes_buffer hm b c p (by simp)).trans ?_
    rw [payload_take]
    by_cases hcb : c = b <;> by_cases hpl : p.val < len <;> simp [hcb, hpl, State.bufferByte]
  · rw [arbiterServe_noClaim he hc]
  · rw [arbiterServe_held fun hfree => ?_]
    rcases (memoryFree_iff s).1 hfree with ⟨-, hn⟩ | ⟨hn, -⟩
    · exact hn hk
    · exact hc hn
  · rw [arbiterServe_held fun hfree => ?_]
    rcases (memoryFree_iff s).1 hfree with ⟨hn, -⟩ | ⟨-, hn⟩
    · exact hn he
    · exact hb hn

end Sys2Proof.BufferPool
end

section
/-! A port reset at the Buffer Pool (R53) and at the arbiter (R54, R175, R176): the pool's part of the release, and the edges of the reset pin. -/

namespace Sys2Proof.BufferPool

open Sys2Proof.Machine

/-! ## BPOOL_RESET_PART (R53) -/

section
variable (s : State)

theorem runsFor_iff (e : EntryNo) (x : Exchange) :
    runsFor e x = true ↔ x.origin = .poll e ∧ (x.state = .active ∨ x.state = .orphan) := by simp [runsFor]

theorem entryRuns_iff (e : EntryNo) :
    entryRuns e s = true ↔ ∃ i, (s.entry e).inst = some i ∧ (s.slot i).origin = .poll e
      ∧ ((s.slot i).state = .active ∨ (s.slot i).state = .orphan) := by
  unfold entryRuns
  cases (s.entry e).inst <;> simp [runsFor_iff]

/-- An attacher stays on the line: a slot that is ACTIVE or ORPHAN, or an entry whose exchange is (R53). -/
theorem staysOnLine_iff (t : Option Attachment) :
    staysOnLine s t = true ↔ ∃ x, t = some x
      ∧ ((∃ i, x.attacher = .slot i ∧ ((s.slot i).state = .active ∨ (s.slot i).state = .orphan))
        ∨ ∃ e i, x.attacher = .entry e ∧ (s.entry e).inst = some i ∧ (s.slot i).origin = .poll e
          ∧ ((s.slot i).state = .active ∨ (s.slot i).state = .orphan)) := by
  cases t with
  | none => simp [staysOnLine]
  | some x => cases hx : x.attacher <;> simp [staysOnLine, hx, entryRuns_iff]

theorem givenBack_of_stays {h : HostId} {b : BufNo} (hs : staysOnLine s (s.attachment b) = true) :
    givenBack h s b = false := by simp [givenBack, hs]

theorem givenBack_of_leaves {h : HostId} {b : BufNo} (hh : s.holder b = .host h)
    (hs : ¬ staysOnLine s (s.attachment b) = true) : givenBack h s b = true :=
  (givenBack_iff s h b).2 ⟨hh, by simpa using hs⟩

theorem givenBack_of_notHeld {h : HostId} {b : BufNo} (hh : s.holder b ≠ .host h) : givenBack h s b = false := by
  simp [givenBack, hh]

/-- After the pool's part host `h` holds no buffer (R53). -/
theorem ownedCount_resetBuffers (h : HostId) : ownedCount h (resetBuffers h s) = 0 := by
  rw [ownedCount_eq, List.length_eq_zero_iff, List.filter_eq_nil_iff]
  intro b _
  rw [resetBuffers_holder]
  split_ifs with hh <;> simp [*]

end

theorem exec_bpoolResetPart {h : HostId} {s : State} (hp : s.porst = false) (hr : (s.port h).phase = .releasing .bpool) :
    exec (.bpoolResetPart h) s = .next (setPhase h (.releasing .plst) (resetBuffers h s)) := by
  rw [show exec (.bpoolResetPart h) s = .next (bpoolResetPart h s) from internal_spec.1 hp, bpoolResetPart, releasePart,
    if_pos hr]

/-- Settles O57, by whether a buffer is the host's and its attacher stays on the line. -/
theorem releaseAtTheBufferPool : Obligations.ReleaseAtTheBufferPool := by
  intro h s hp hr runs stays
  have hstays : ∀ b, staysOnLine s (s.attachment b) = true ↔ stays b := fun b => staysOnLine_iff s _
  refine ⟨_, exec_bpoolResetPart hp hr, ?_, fun k hk => ?_, fun b hb hon => ?_, fun b hb hon => ?_, fun b hb => ?_,
    ownedCount_resetBuffers s h, ⟨(List.finRange 96).filter (givenBack h s), rfl,
      (List.pairwise_lt_finRange 96).filter _, fun b => ?_⟩, rfl⟩
  · exact (State.setPort_port _ h _ h).trans (if_pos rfl)
  · exact (State.setPort_port _ h _ k).trans (if_neg hk.symm)
  · have hkept := givenBack_of_stays s (h := h) ((hstays b).2 hon)
    refine ⟨(resetBuffers_holder s h b).trans ?_, (resetBuffers_attachment s h b).trans ?_⟩ <;> simp [hb, hkept]
  · have hback := givenBack_of_leaves s hb (mt (hstays b).1 hon)
    refine ⟨(resetBuffers_holder s h b).trans ?_, (resetBuffers_attachment s h b).trans ?_⟩ <;> simp [hb, hback]
  · have hkept := givenBack_of_notHeld s hb
    refine ⟨(resetBuffers_holder s h b).trans ?_, (resetBuffers_attachment s h b).trans ?_⟩ <;> simp [hb, hkept]
  · rw [mem_filter_finRange, givenBack_iff, ← Bool.not_eq_true, hstays]

/-! ## The edges of the reset pin (R54, R175, R176) -/

section
variable {h : HostId} {s : State}

theorem exec_hostPortResetAssert : exec (.hostPortResetAssert h) s = .next (hostPortResetAssert h s) := rfl
theorem exec_hostPortResetRelease : exec (.hostPortResetRelease h) s = .next (hostPortResetRelease h s) := rfl

theorem assert_held (hpin : (s.port h).pin = true) : hostPortResetAssert h s = s := if_pos hpin

/-- An assertion during a release waits for its end (log 22). -/
theorem assert_releasing {p : ReleasePart} (hpin : (s.port h).pin = false) (hr : (s.port h).phase = .releasing p) :
    hostPortResetAssert h s =
      s.setPort h { s.port h with pin := true, edges := (s.port h).edges + 1, waiting := [] } := by
  simp [hostPortResetAssert, hpin, hr]

theorem assert_serving (hpin : (s.port h).pin = false) (hx : (s.port h).phase = .serving) :
    hostPortResetAssert h s =
      (abandonAccess h s).setPort h { (abandonAccess h s).port h with pin := true, phase := .held } := by
  simp [hostPortResetAssert, hpin, hx]

/-- With no access in service the waiting ones end and a waiting claim is withdrawn (R54, R175). -/
theorem assert_withdraws (hpin : (s.port h).pin = false) (hx : (s.port h).phase = .serving) (hn : ¬ AccessInService h s) :
    hostPortResetAssert h s =
      s.setPort h { s.port h with pin := true, phase := .held, claim := none, waiting := [] } := by
  rw [assert_serving hpin hx, (abandonAccess_spec h s).1 hn]
  simp [Port.withdrawn]

/-- An access in service is given back unanswered, and its service goes on (R51, R54). -/
theorem assert_abandons {v : Shown} {left : Nat} (hpin : (s.port h).pin = false) (hx : (s.port h).phase = .serving)
    (hv : s.service = some ⟨.port h v, left⟩) : hostPortResetAssert h s =
      { s.setPort h { s.port h with
          pin := true, phase := .held, claim := none, waiting := []
          data := v.data, result := v.result, params := v.params } with
        service := some ⟨.abandoned, left⟩ } := by
  rw [assert_serving hpin hx, (abandonAccess_spec h s).2 v left hv]
  simp [Port.withdrawn, Port.showing, State.setPort, State.port]

theorem release_notHeld (hpin : (s.port h).pin = false) : hostPortResetRelease h s = s := if_pos (by simp [hpin])

theorem release_held (hpin : (s.port h).pin = true) (hx : (s.port h).phase = .held) : hostPortResetRelease h s =
    s.setPort h { s.port h with pin := false, phase := if s.porst then .serving else .releasing .xtab } := by
  simp [hostPortResetRelease, hpin, hx]

/-- A release of the pin during a release waits for its end (log 22). -/
theorem release_releasing {p : ReleasePart} (hpin : (s.port h).pin = true) (hr : (s.port h).phase = .releasing p) :
    hostPortResetRelease h s = s.setPort h { s.port h with pin := false, edges := (s.port h).edges + 1 } := by
  simp [hostPortResetRelease, hpin, hr]

end

/-- Settles O55, by the pin's level and the port's phase. -/
theorem resetPinStopsAndStartsThePort : Obligations.ResetPinStopsAndStartsThePort := by
  intro h s
  rw [exec_hostPortResetAssert, exec_hostPortResetRelease]
  refine ⟨fun hpin => ?_, fun hpin hx => ⟨fun hn => ?_, fun v left hv => ?_⟩, fun hpin => ?_, fun hpin hx => ?_,
    fun p hr => ⟨fun hpin => ?_, fun hpin => ?_⟩⟩
  · rw [assert_held hpin]
  · rw [assert_withdraws hpin hx hn]
  · rw [assert_abandons hpin hx hv]
  · rw [release_notHeld hpin]
  · rw [release_held hpin hx]
  · rw [assert_releasing hpin hr]
  · rw [release_releasing hpin hr]

end Sys2Proof.BufferPool
end

section
/-! STATION_FLUSH (R74): the QUEUED exchanges of a station end one after the other, and what has come of them in closed form. -/

namespace Sys2Proof.BufferPool

open Sys2Proof.Machine

/-! ## An entry into DONE, field by field (R70) -/

section
variable (i : SlotNo) (x : Exchange) (s : State)

/-- The record of an exchange that enters DONE, with the finish number it takes (R60, R70). -/
def doneRecord : Exchange := { x with state := .done, finish := some s.finish }

/-- The state with the finish number taken and the slot's buffers unlent. -/
def unlentAtEnd : State := unlend (.slot i) { s with finish := s.finish + 1 }

theorem enterDone_posts (hroom : (s.queue x.owner).length < 16) :
    enterDone i x s = post i (doneRecord x s) (unlentAtEnd i s) := if_pos hroom

theorem enterDone_waits (hfull : ¬ (s.queue x.owner).length < 16) :
    enterDone i x s = (unlentAtEnd i s).setSlot i (doneRecord x s) := if_neg hfull

theorem enterDone_finish : (enterDone i x s).finish = s.finish + 1 := by
  by_cases hroom : (s.queue x.owner).length < 16
  · rw [enterDone_posts i x s hroom]
    rfl
  · rw [enterDone_waits i x s hroom]
    rfl

theorem enterDone_pool : pool (enterDone i x s) = pool (unlend (.slot i) s) := pool_ite _ rfl rfl

theorem enterDone_slot (j : SlotNo) : (enterDone i x s).slot j =
    if i = j then (if (s.queue x.owner).length < 16 then freeExchange else doneRecord x s) else s.slot j := by
  by_cases hroom : (s.queue x.owner).length < 16
  · rw [enterDone_posts i x s hroom, if_pos hroom]
    exact State.setSlot_slot _ i _ j
  · rw [enterDone_waits i x s hroom, if_neg hroom]
    exact State.setSlot_slot _ i _ j

theorem enterDone_queue (k : HostId) : (enterDone i x s).queue k =
    if x.owner = k ∧ (s.queue x.owner).length < 16 then s.queue k ++ [completionOf i (doneRecord x s)] else s.queue k := by
  by_cases hroom : (s.queue x.owner).length < 16
  · rw [enterDone_posts i x s hroom]
    refine (State.setQueue_queue _ x.owner _ k).trans
      (ite_congr (propext (and_iff_left hroom).symm) (fun hk => ?_) fun _ => rfl)
    rw [← hk.1]
    rfl
  · rw [enterDone_waits i x s hroom, if_neg fun h => hroom h.2]
    rfl

theorem enterDone_notice (k : HostId) : (enterDone i x s).notice k =
    if x.owner = k ∧ (s.queue x.owner).length < 16 then (s.notice k).latched .completion else s.notice k := by
  by_cases hroom : (s.queue x.owner).length < 16
  · rw [enterDone_posts i x s hroom]
    refine (State.setNotice_notice _ x.owner _ k).trans
      (ite_congr (propext (and_iff_left hroom).symm) (fun hk => ?_) fun _ => rfl)
    rw [← hk.1]
    rfl
  · rw [enterDone_waits i x s hroom, if_neg fun h => hroom h.2]
    rfl

theorem enterDone_frame : { enterDone i x s with
    slots := s.slots, finish := s.finish, holders := s.holders, attached := s.attached, freeList := s.freeList
    queues := s.queues, notices := s.notices } = s := by
  by_cases hroom : (s.queue x.owner).length < 16
  · rw [enterDone_posts i x s hroom]
    rfl
  · rw [enterDone_waits i x s hroom]
    rfl

end

/-! ## The exchanges that end, in their order -/

section
variable (s : State)

/-- A QUEUED exchange ends with STATION_DOWN (R74). -/
def endDown (i : SlotNo) : State := enterDone i (endUngranted .stationDown (s.slot i)) s

/-- Of the slots of a list, those of a host that its queue has room for. -/
def posted (l : List SlotNo) (h : HostId) : List SlotNo :=
  (l.filter fun i => decide ((s.slot i).owner = h)).take (16 - (s.queue h).length)

/-- The completion record of an exchange that a flush ends (R74, R145). -/
def downCompletion (i : SlotNo) : Completion :=
  ⟨(s.slot i).tag.getD 0, i, (s.slot i).station, (s.slot i).function, .stationDown, (s.slot i).attempts, 0, none, false,
    (s.slot i).promoted⟩

/-- A buffer is attached to a slot of a list. -/
def AttachedIn (l : List SlotNo) (b : BufNo) : Prop :=
  ∃ x i, s.attachment b = some x ∧ x.attacher = .slot i ∧ i ∈ l

end

/-- A pass of the flush over slots, each once, ends those among them that it finds flushable at its beginning. -/
theorem foldl_flushSlot (n : StationNo) : ∀ (l : List SlotNo) (s : State), l.Nodup →
    l.foldl (flushSlot n) s = (l.filter fun i => flushable n (s.slot i)).foldl endDown s
  | [], _, _ => rfl
  | i :: l, s, hl => by
    obtain ⟨hi, hl⟩ := List.nodup_cons.1 hl
    rw [List.foldl_cons, foldl_flushSlot n l _ hl, List.filter_cons]
    cases hf : flushable n (s.slot i) with
    | false => rw [show flushSlot n s i = s from if_neg (by simp [hf]), if_neg (by simp)]
    | true =>
      have hothers : ∀ j ∈ l, (endDown s i).slot j = s.slot j := fun j hj =>
        (enterDone_slot i _ s j).trans (if_neg (ne_of_mem_of_not_mem hj hi).symm)
      rw [show flushSlot n s i = endDown s i from if_pos hf, if_pos rfl, List.foldl_cons]
      congr 1
      exact List.filter_congr fun j hj => by rw [hothers j hj]

/-! ## What the ends of a list leave, at the table, the queues and the notices -/

/-- The state `t` is `s` after the exchanges in the slots of a list have ended with STATION_DOWN, in the list's order (R74). -/
structure EndedDown (l : List SlotNo) (s t : State) : Prop where
  finish : t.finish = s.finish + BitVec.ofNat 16 l.length
  others : ∀ i, i ∉ l → t.slot i = s.slot i
  ended : ∀ k i, l[k]? = some i → t.slot i =
    if i ∈ posted s l (s.slot i).owner then freeExchange
    else { s.slot i with
      state := .done, outcome := some .stationDown, finish := some (s.finish + BitVec.ofNat 16 k)
      replyLength := 0, replyFunction := none, payloadDropped := false }
  queue : ∀ h, t.queue h = s.queue h ++ (posted s l h).map (downCompletion s)
  notice : ∀ h, t.notice h = if posted s l h = [] then s.notice h else (s.notice h).latched .completion
  unlent : ∀ b, AttachedIn s l b → t.attachment b = none ∧ t.holder b = if s.holder b = .orphaned then .free else s.holder b
  kept : ∀ b, ¬ AttachedIn s l b → t.attachment b = s.attachment b ∧ t.holder b = s.holder b
  joined : ∃ back, t.freeList = s.freeList ++ back ∧ ∀ b, b ∈ back ↔ s.holder b = .orphaned ∧ AttachedIn s l b
  frame : { t with
    slots := s.slots, finish := s.finish, holders := s.holders, attached := s.attached, freeList := s.freeList
    queues := s.queues, notices := s.notices } = s

theorem not_attachedIn_nil (s : State) (b : BufNo) : ¬ AttachedIn s [] b := by simp [AttachedIn]

theorem EndedDown.nil (s : State) : EndedDown [] s s where
  finish := by simp
  others _ _ := rfl
  ended k i h := by simp at h
  queue h := by simp [posted]
  notice h := by simp [posted]
  unlent b hb := absurd hb (not_attachedIn_nil s b)
  kept _ _ := ⟨rfl, rfl⟩
  joined := ⟨[], by simp, fun b => by simp [not_attachedIn_nil]⟩
  frame := rfl

/-! ## One more exchange ends -/

section
variable {l : List SlotNo} {s t : State} {i : SlotNo}

/-- There is room for one more post in the queue of slot `i`'s owner, after those of a list. -/
def RoomAfter (s : State) (l : List SlotNo) (i : SlotNo) : Prop :=
  (s.queue (s.slot i).owner).length + (posted s l (s.slot i).owner).length < 16

/-- With room left in its owner's queue, one more is posted. -/
theorem posted_snoc_posts {h : HostId} (hpost : (s.slot i).owner = h ∧ RoomAfter s l i) :
    posted s (l ++ [i]) h = posted s l h ++ [i] := by
  obtain ⟨rfl, hroom⟩ := hpost
  simp only [RoomAfter, posted, List.length_take] at hroom
  have hall : (l.filter fun j => decide ((s.slot j).owner = (s.slot i).owner)).length
      < 16 - (s.queue (s.slot i).owner).length := by omega
  have hone : [i].length ≤ 16 - (s.queue (s.slot i).owner).length
      - (l.filter fun j => decide ((s.slot j).owner = (s.slot i).owner)).length := by simp only [List.length_singleton]; omega
  rw [posted, posted, List.filter_append, List.take_append, List.filter_cons_of_pos (by simp), List.filter_nil,
    List.take_of_length_le hone]

/-- With none left, or for another host, it is not. -/
theorem posted_snoc_stays {h : HostId} (hn : ¬ ((s.slot i).owner = h ∧ RoomAfter s l i)) :
    posted s (l ++ [i]) h = posted s l h := by
  by_cases ho : (s.slot i).owner = h
  · subst ho
    simp only [true_and, RoomAfter, posted, List.length_take] at hn
    have hall : 16 - (s.queue (s.slot i).owner).length
        ≤ (l.filter fun j => decide ((s.slot j).owner = (s.slot i).owner)).length := by omega
    rw [posted, posted, List.filter_append, List.take_append_of_le_length hall]
  · simp [posted, List.filter_append, ho]

theorem posted_subset {h : HostId} {j : SlotNo} (hj : j ∈ posted s l h) : j ∈ l :=
  (List.mem_filter.1 (List.mem_of_mem_take hj)).1

theorem attachedIn_snoc (b : BufNo) :
    AttachedIn s (l ++ [i]) b ↔ AttachedIn s l b ∨ attachedTo (.slot i) (s.attachment b) = true := by
  simp only [AttachedIn, List.mem_append, List.mem_singleton, attachedTo_iff]
  grind

theorem latched_latched (c : NoticeCtl) (src : NoticeSource) : (c.latched src).latched src = c.latched src := by
  simp [NoticeCtl.latched, BitVec.or_assoc]

theorem endDown_slot (j : SlotNo) : (endDown t i).slot j = if i = j then
    if (t.queue (t.slot i).owner).length < 16 then freeExchange else doneRecord (endUngranted .stationDown (t.slot i)) t
    else t.slot j := enterDone_slot i _ t j

theorem endDown_holder (b : BufNo) :
    (endDown t i).holder b = if returnedBy (.slot i) t b then .free else t.holder b := by
  rw [State.holder, endDown, (Pool.mk.inj (enterDone_pool i _ t)).2.1]
  exact unlend_holder t _ b

theorem endDown_attachment (b : BufNo) :
    (endDown t i).attachment b = if attachedTo (.slot i) (t.attachment b) then none else t.attachment b := by
  rw [State.attachment, endDown, (Pool.mk.inj (enterDone_pool i _ t)).2.2.1]
  exact unlend_attachment t _ b

theorem endDown_freeList :
    (endDown t i).freeList = t.freeList ++ (List.finRange 96).filter (returnedBy (.slot i) t) :=
  (Pool.mk.inj (enterDone_pool i _ t)).2.2.2

theorem mem_posted_snoc_other {h : HostId} {j : SlotNo} (hj : j ≠ i) :
    j ∈ posted s (l ++ [i]) h ↔ j ∈ posted s l h := by
  by_cases hpost : (s.slot i).owner = h ∧ RoomAfter s l i
  · simp [posted_snoc_posts hpost, hj]
  · rw [posted_snoc_stays hpost]

theorem mem_posted_snoc_self (hi : i ∉ l) : i ∈ posted s (l ++ [i]) (s.slot i).owner ↔ RoomAfter s l i := by
  by_cases hpost : (s.slot i).owner = (s.slot i).owner ∧ RoomAfter s l i
  · simp [posted_snoc_posts hpost, hpost.2]
  · rw [posted_snoc_stays hpost]
    exact iff_of_false (mt posted_subset hi) fun hroom => hpost ⟨rfl, hroom⟩

section
variable (hl : EndedDown l s t) (hi : i ∉ l)
include hl hi

/-- The room that is left is judged by what has been posted. -/
theorem EndedDown.room : (t.queue (t.slot i).owner).length < 16 ↔ RoomAfter s l i := by
  rw [RoomAfter, hl.others i hi, hl.queue, List.length_append, List.length_map]

theorem EndedDown.posts_iff (h : HostId) : (t.slot i).owner = h ∧ (t.queue (t.slot i).owner).length < 16 ↔
    (s.slot i).owner = h ∧ RoomAfter s l i := by
  rw [hl.room hi, hl.others i hi]

theorem EndedDown.snoc_slot (k : Nat) (j : SlotNo) (hk : (l ++ [i])[k]? = some j) : (endDown t i).slot j =
    if j ∈ posted s (l ++ [i]) (s.slot j).owner then freeExchange
    else { s.slot j with
      state := .done, outcome := some .stationDown, finish := some (s.finish + BitVec.ofNat 16 k)
      replyLength := 0, replyFunction := none, payloadDropped := false } := by
  rw [endDown_slot]
  by_cases hlast : k < l.length
  · rw [List.getElem?_append_left hlast] at hk
    have hj : j ≠ i := ne_of_mem_of_not_mem (List.mem_of_getElem? hk) hi
    rw [if_neg hj.symm, hl.ended k j hk]
    exact if_congr (mem_posted_snoc_other hj).symm rfl rfl
  · rw [List.getElem?_append_right (by omega), List.getElem?_singleton] at hk
    obtain ⟨hzero, rfl⟩ : k - l.length = 0 ∧ i = j := by simpa using hk
    obtain rfl : k = l.length := by omega
    rw [if_pos rfl, hl.others i hi, doneRecord, hl.finish]
    exact if_congr ((hl.others i hi ▸ hl.room hi).trans (mem_posted_snoc_self hi).symm) rfl rfl

theorem EndedDown.snoc_queue (h : HostId) :
    (endDown t i).queue h = s.queue h ++ (posted s (l ++ [i]) h).map (downCompletion s) := by
  have hrecord : completionOf i (doneRecord (endUngranted .stationDown (t.slot i)) t) = downCompletion s i := by
    rw [hl.others i hi]
    rfl
  have hqueue : (endDown t i).queue h = if (t.slot i).owner = h ∧ (t.queue (t.slot i).owner).length < 16 then
      t.queue h ++ [downCompletion s i] else t.queue h := hrecord ▸ enterDone_queue i _ t h
  by_cases hpost : (s.slot i).owner = h ∧ RoomAfter s l i
  · rw [hqueue, if_pos ((hl.posts_iff hi h).2 hpost), hl.queue, posted_snoc_posts hpost, List.map_append,
      List.append_assoc]
    rfl
  · rw [hqueue, if_neg (mt (hl.posts_iff hi h).1 hpost), hl.queue, posted_snoc_stays hpost]

theorem EndedDown.snoc_notice (h : HostId) : (endDown t i).notice h =
    if posted s (l ++ [i]) h = [] then s.notice h else (s.notice h).latched .completion := by
  have hnotice : (endDown t i).notice h = if (t.slot i).owner = h ∧ (t.queue (t.slot i).owner).length < 16 then
      (t.notice h).latched .completion else t.notice h := enterDone_notice i _ t h
  by_cases hpost : (s.slot i).owner = h ∧ RoomAfter s l i
  · rw [hnotice, if_pos ((hl.posts_iff hi h).2 hpost), hl.notice, posted_snoc_posts hpost,
      if_neg (List.append_ne_nil_of_right_ne_nil _ (List.cons_ne_nil i []))]
    split
    · rfl
    · exact latched_latched _ _
  · rw [hnotice, if_neg (mt (hl.posts_iff hi h).1 hpost), hl.notice, posted_snoc_stays hpost]

end

/-! ## One more exchange's buffers return -/

section
variable (hl : EndedDown l s t)
include hl

/-- The unlend of one more slot finds attached what the list left attached to it. -/
theorem EndedDown.attachedTo_iff (b : BufNo) : attachedTo (.slot i) (t.attachment b) = true ↔
    ¬ AttachedIn s l b ∧ attachedTo (.slot i) (s.attachment b) = true := by
  by_cases hb : AttachedIn s l b
  · simp [(hl.unlent b hb).1, hb, attachedTo]
  · simp [(hl.kept b hb).1, hb]

theorem EndedDown.returnedBy_iff (b : BufNo) : returnedBy (.slot i) t b = true ↔
    ¬ AttachedIn s l b ∧ attachedTo (.slot i) (s.attachment b) = true ∧ s.holder b = .orphaned := by
  rw [BufferPool.returnedBy_iff, hl.attachedTo_iff, and_assoc]
  refine and_congr_right fun hb => ?_
  rw [(hl.kept b hb).2]

theorem EndedDown.snoc_unlent (b : BufNo) (hb : AttachedIn s (l ++ [i]) b) : (endDown t i).attachment b = none
    ∧ (endDown t i).holder b = if s.holder b = .orphaned then .free else s.holder b := by
  rw [endDown_attachment, endDown_holder]
  by_cases hin : AttachedIn s l b
  · obtain ⟨hattachment, hholder⟩ := hl.unlent b hin
    rw [if_neg (mt (hl.returnedBy_iff b).1 fun h => h.1 hin), hattachment, ite_self]
    exact ⟨rfl, hholder⟩
  · have hslot := ((attachedIn_snoc b).1 hb).resolve_left hin
    rw [if_pos ((hl.attachedTo_iff b).2 ⟨hin, hslot⟩)]
    refine ⟨rfl, ?_⟩
    by_cases ho : s.holder b = .orphaned
    · rw [if_pos ((hl.returnedBy_iff b).2 ⟨hin, hslot, ho⟩), if_pos ho]
    · rw [if_neg (mt (hl.returnedBy_iff b).1 fun h => ho h.2.2), if_neg ho, (hl.kept b hin).2]

theorem EndedDown.snoc_kept (b : BufNo) (hb : ¬ AttachedIn s (l ++ [i]) b) :
    (endDown t i).attachment b = s.attachment b ∧ (endDown t i).holder b = s.holder b := by
  obtain ⟨hin, hslot⟩ := not_or.1 (mt (attachedIn_snoc b).2 hb)
  rw [endDown_attachment, if_neg (mt (hl.attachedTo_iff b).1 fun h => hslot h.2), endDown_holder,
    if_neg (mt (hl.returnedBy_iff b).1 fun h => hslot h.2.1)]
  exact hl.kept b hin

theorem EndedDown.snoc_joined : ∃ back, (endDown t i).freeList = s.freeList ++ back
    ∧ ∀ b, b ∈ back ↔ s.holder b = .orphaned ∧ AttachedIn s (l ++ [i]) b := by
  obtain ⟨back, hlist, hback⟩ := hl.joined
  refine ⟨back ++ (List.finRange 96).filter (returnedBy (.slot i) t), ?_, fun b => ?_⟩
  · rw [endDown_freeList, hlist, List.append_assoc]
  · rw [List.mem_append, mem_filter_finRange, hback, hl.returnedBy_iff, attachedIn_snoc]
    tauto

end

/-- The exchanges of a list have ended, and then one more that is not among them. -/
theorem EndedDown.snoc (hl : EndedDown l s t) (hi : i ∉ l) : EndedDown (l ++ [i]) s (endDown t i) where
  finish := by
    rw [show (endDown t i).finish = t.finish + 1 from enterDone_finish i _ t, hl.finish, List.length_append,
      List.length_singleton, BitVec.ofNat_add, BitVec.add_assoc]
    rfl
  others j hj := by
    obtain ⟨hjl, hji⟩ := not_or.1 (mt List.mem_append.2 hj)
    rw [endDown_slot, if_neg fun he => hji (by simp [he]), hl.others j hjl]
  ended := hl.snoc_slot hi
  queue := hl.snoc_queue hi
  notice := hl.snoc_notice hi
  unlent := hl.snoc_unlent
  kept := hl.snoc_kept
  joined := hl.snoc_joined
  frame := by
    have hframe : { endDown t i with
      slots := t.slots, finish := t.finish, holders := t.holders, attached := t.attached, freeList := t.freeList
      queues := t.queues, notices := t.notices } = t := enterDone_frame i _ t
    exact (congrArg (fun u : State => { u with
      slots := s.slots, finish := s.finish, holders := s.holders, attached := s.attached, freeList := s.freeList
      queues := s.queues, notices := s.notices }) hframe).trans hl.frame

end

/-- What a flush over slots, each once, leaves. -/
theorem foldl_endDown (s : State) (l : List SlotNo) (hl : l.Nodup) : EndedDown l s (l.foldl endDown s) := by
  induction l using List.reverseRecOn with
  | nil => exact .nil s
  | append_singleton l i ih =>
    rw [List.foldl_append]
    obtain ⟨hl, -, hdisjoint⟩ := List.nodup_append.1 hl
    exact (ih hl).snoc fun hi => hdisjoint i hi i (by simp) rfl

/-- A flush ends the QUEUED HOST-origin exchanges to its station, and no other (R74). -/
theorem flushStation_endedDown (n : StationNo) (s : State) : EndedDown ((List.finRange 32).filter fun i =>
    decide ((s.slot i).state = .queued ∧ (s.slot i).origin = .host ∧ (s.slot i).station = n.address)) s
    (flushStation n s) := by
  have hnodup := List.nodup_finRange 32
  have hhit : ((List.finRange 32).filter fun i => flushable n (s.slot i)) = (List.finRange 32).filter fun i =>
      decide ((s.slot i).state = .queued ∧ (s.slot i).origin = .host ∧ (s.slot i).station = n.address) :=
    List.filter_congr fun i _ => by simp only [flushable, Bool.decide_and, Bool.and_assoc]
  rw [flushStation, foldl_flushSlot n _ s hnodup, hhit]
  exact foldl_endDown s _ (hnodup.filter _)

theorem exec_stationFlush {n : StationNo} {s : State} (hp : s.porst = false) (hf : s.hand.flush = some n) :
    exec .stationFlush s = .next (flushStation n (s.setHand { s.hand with flush := none })) := by
  rw [show exec .stationFlush s = .next (stationFlush s) from internal_spec.1 hp, stationFlush, hf]

/-- Settles O31: the flushable exchanges end one after the other, each leaving the others as they were. -/
theorem flushEndsTheQueuedWork : Obligations.FlushEndsTheQueuedWork := by
  intro n s hp hf
  have hended := flushStation_endedDown n (s.setHand { s.hand with flush := none })
  rw [exec_stationFlush hp hf]
  generalize flushStation n (s.setHand { s.hand with flush := none }) = t at hended ⊢
  refine ⟨t, rfl, ⟨hended.finish, hended.others, hended.ended, hended.queue, hended.notice, ?_,
    fun b hb => (hended.unlent b hb).1, fun b hb => hended.kept b fun ⟨x, i, hx, hi, hmem⟩ => hb x i hx hi hmem,
    fun b hb => (hended.unlent b hb).2, hended.joined⟩, ?_⟩
  · exact congrArg State.hand hended.frame
  · exact congrArg (fun u : State => { u with hand := s.hand }) hended.frame

end Sys2Proof.BufferPool
end

section
/-! What leaves the exchanges alone (R57, R68, R103): the events of the Line Interface, and every other block's own work. -/

namespace Sys2Proof.ExchangeTable

open Sys2Proof.Machine

/-! ## The events of the Line Interface -/

/-- The state `t` is `s` but for the Line Interface and the engine's claim at the arbiter. -/
def LineOnly (s t : State) : Prop := { t with lif := s.lif, engineClaim := s.engineClaim } = s

section
variable {s t u : State}

theorem LineOnly.trans (h : LineOnly s t) (h' : LineOnly t u) : LineOnly s u := by
  unfold LineOnly at *
  rw [← h, ← h']

theorem LineOnly.ite {p : Prop} [Decidable p] (ht : LineOnly s t) (hu : LineOnly s u) :
    LineOnly s (if p then t else u) := by
  split
  · exact ht
  · exact hu

theorem setLif_lineOnly (l : Lif) (s : State) : LineOnly s (s.setLif l) := rfl

end

section
variable (s : State)

theorem takeOrder_lineOnly (o : SendOrder) : LineOnly s (takeOrder o s) := .ite rfl rfl
theorem cut_lineOnly : LineOnly s (cut s) := .ite rfl rfl
theorem collide_lineOnly : LineOnly s (collide s) := (setLif_lineOnly _ s).trans (cut_lineOnly _)
theorem rise_lineOnly : LineOnly s (rise s) := by unfold rise; simp only []; split <;> rfl

theorem placeFetch_lineOnly (i : Nat) : LineOnly s (placeFetch i s) := by
  refine .ite ?_ rfl
  split
  · rfl
  · split <;> rfl

theorem beginCharacter_lineOnly (i : Nat) (v : Byte) (c : Word16) (p : Option Byte) :
    LineOnly s (beginCharacter i v c p s) := (setLif_lineOnly _ s).trans (placeFetch_lineOnly _ i)

theorem openingBreakEnd_lineOnly : LineOnly s (openingBreakEnd s) := .ite (beginCharacter_lineOnly s _ _ _ _) rfl

theorem characterSent_lineOnly : LineOnly s (characterSent s) := by
  refine .ite (.ite (collide_lineOnly s) (.ite rfl ?_)) rfl
  split
  · rfl
  · exact beginCharacter_lineOnly s _ _ _ _

theorem echoCollision_lineOnly : LineOnly s (echoCollision s) := .ite (collide_lineOnly s) rfl
theorem frameSent_lineOnly : LineOnly s (frameSent s) := .ite rfl rfl
theorem cutBreakEnd_lineOnly : LineOnly s (cutBreakEnd s) := .ite rfl rfl

theorem breakDetected_lineOnly : LineOnly s (breakDetected s) := by
  unfold breakDetected
  split
  · rfl
  · refine .ite rfl ?_
    split
    · exact .ite rfl (.ite ((setLif_lineOnly _ s).trans (collide_lineOnly _)) rfl)
    all_goals rfl

theorem halfBitSample_lineOnly : LineOnly s (halfBitSample s) := by
  unfold halfBitSample
  simp only []
  split
  · rfl
  · exact .ite rfl (.ite (.ite rfl rfl) rfl)

theorem gapLimit_lineOnly : LineOnly s (gapLimit s) := by
  unfold gapLimit
  simp only []
  split
  · exact .ite rfl (.ite rfl rfl)
  · rfl

theorem assemble_lineOnly (b : Byte) (k : Nat) : LineOnly s (assemble b k s) := .ite rfl (.ite (.ite rfl rfl) rfl)

theorem characterTaken_lineOnly (b : Byte) : LineOnly s (characterTaken b s) := by
  unfold characterTaken
  simp only []
  split
  · rfl
  · refine .ite ?_ rfl
    split
    · exact (setLif_lineOnly _ s).trans (assemble_lineOnly _ _ _)
    · exact .ite rfl rfl
    · rfl

theorem framingError_lineOnly : LineOnly s (framingError s) := by
  have hback : LineOnly s (if s.lif.input then s else rise s) := .ite rfl (rise_lineOnly s)
  unfold framingError
  split
  · rfl
  · refine .ite ?_ rfl
    simp only []
    split
    · exact hback.trans rfl
    · exact .ite (hback.trans rfl) (hback.trans rfl)
    · exact hback.trans rfl

theorem stuckDetected_lineOnly : LineOnly s (stuckDetected s) := .ite rfl rfl
theorem lineRecovered_lineOnly : LineOnly s (lineRecovered s) := .ite rfl rfl

theorem act_lineOnly (e : RxEvent) : LineOnly s (e.act s) := by
  cases e with
  | halfBit => exact halfBitSample_lineOnly s
  | taken v => exact characterTaken_lineOnly s v
  | framing => exact framingError_lineOnly s
  | brk => exact breakDetected_lineOnly s
  | stuck => exact stuckDetected_lineOnly s
  | gap => exact gapLimit_lineOnly s
  | recovery => exact lineRecovered_lineOnly s

theorem takeDue_lineOnly : ∀ (n : Nat) (s : State), LineOnly s (takeDue n s)
  | 0, _ => rfl
  | n + 1, s => by
    unfold takeDue
    split
    · rfl
    · exact (act_lineOnly s _).trans (takeDue_lineOnly n _)

theorem catchUp_lineOnly : LineOnly s (catchUp s) := takeDue_lineOnly 8 s

theorem breakEnd_lineOnly : LineOnly s (breakEnd s) := .ite ((catchUp_lineOnly s).trans (rise_lineOnly _)) rfl

theorem spaceToMarkEdge_lineOnly : LineOnly s (spaceToMarkEdge s) :=
  .ite rfl (.ite rfl ((catchUp_lineOnly s).trans (rise_lineOnly _)))

theorem markToSpaceEdge_lineOnly : LineOnly s (markToSpaceEdge s) :=
  .ite rfl (.ite ((catchUp_lineOnly s).trans (setLif_lineOnly _ _)) rfl)

end

/-! ## What is known of the exchanges -/

/-- What the exchanges' records and the line's grant are known by: the slots, the engine's current exchange and whether its retry is due, the end that waits at the table (R68, R69, R103); and the settings, which give the retry limits (R62, R66). -/
structure Running where
  slots : Table Exchange 32
  current : Option SlotNo
  retryDue : Bool
  ended : Option ExchangeEnd
  active : Settings
  staged : Option Settings

def running (s : State) : Running :=
  ⟨s.slots, s.engine.current, s.engine.retryDue, s.hand.exchangeEnd, s.active, s.staged⟩

theorem running_of_lineOnly {s t : State} (h : LineOnly s t) : running t = running s := by
  rw [← h]
  rfl

/-- What the Station Table changes is apart from the exchanges, as far as it hands no end. -/
theorem running_of_tableOnly {s t : State} (h : StationRecords.TableOnly s t)
    (hend : t.hand.exchangeEnd = s.hand.exchangeEnd) : running t = running s := by
  simp only [running, hend]
  rw [← h]

section
variable (s : State)

/-- A choice between two states that leave the exchanges leaves them. -/
theorem running_ite {p : Prop} [Decidable p] {t u : State} (ht : running t = running s) (hu : running u = running s) :
    running (if p then t else u) = running s := by
  split
  · exact ht
  · exact hu

/-! ## The Buffer Pool, the ports and the notices -/

theorem running_bufAlloc (h : HostId) : running (bufAlloc h s) = running s := by
  refine running_ite s rfl ?_
  split
  · rfl
  · exact running_ite s rfl rfl

theorem running_bufFree (h : HostId) : running (bufFree h s) = running s := by
  unfold bufFree
  split
  · rfl
  · exact running_ite s rfl (running_ite s rfl rfl)

theorem running_readExchange (h : HostId) : running (readExchange h s) = running s := by
  unfold readExchange
  split
  · rfl
  · exact running_ite s rfl rfl

theorem running_noticeCodeRead (h : HostId) : running (noticeCodeRead h s) = running s := by
  unfold noticeCodeRead
  split <;> rfl

theorem running_serveClaim (h : HostId) (c : PortClaim) : running (serveClaim h c s) = running s := by
  cases c with
  | read offset =>
    simp only [serveClaim, serveRead]
    split <;> rfl
  | write offset value =>
    simp only [serveClaim, serveWrite]
    split <;> rfl
  | clear b owned free => rfl

theorem running_hostPortResetAssert (h : HostId) : running (hostPortResetAssert h s) = running s := by
  have habandon : running (abandonAccess h s) = running s := by
    unfold abandonAccess
    split
    · exact running_ite s rfl rfl
    · rfl
  refine running_ite s rfl ?_
  split
  · rfl
  · exact habandon

theorem running_hostPortResetRelease (h : HostId) : running (hostPortResetRelease h s) = running s := by
  refine running_ite s rfl ?_
  split <;> rfl

theorem running_portResetPart (h : HostId) : running (portResetPart h s) = running s := running_ite s rfl rfl
theorem running_powerOnResetRelease : running (powerOnResetRelease s) = running s := running_ite s rfl rfl

/-! ## The Station Table -/

theorem running_takeReport (r : EndReport) : running (takeReport r s) = running s := by
  have hstation (t : State) (p : Prop) [Decidable p] (ht : running t = running s) :
      running (if p then stationChange r.station t else t) = running s := running_ite s ht ht
  exact running_ite s (hstation _ _ rfl) (hstation _ _ rfl)

theorem running_exchangeEndReport : running (exchangeEndReport s) = running s := by
  unfold exchangeEndReport
  split
  · rfl
  · exact running_ite s rfl (running_takeReport s _)

theorem running_readStation (h : HostId) : running (readStation h s) = running s := by
  unfold readStation
  split <;> rfl

theorem running_subscribe (h : HostId) : running (subscribe h s) = running s := by
  unfold subscribe
  split
  · rfl
  · exact running_ite s rfl rfl

theorem running_unsubscribe (h : HostId) : running (unsubscribe h s) = running s := by
  unfold unsubscribe
  split
  · rfl
  · exact running_ite s rfl rfl

theorem running_handOver (n : StationNo) : running (handOver n s) = running s := by
  cases hk : (s.station n).hold with
  | none => simp [handOver, hk]
  | some k =>
    obtain ⟨hold, -, hreplaced⟩ := StationRecords.handOver_replaces hk
    exact running_of_tableOnly hreplaced.table (by rw [hreplaced.hand])

theorem running_hold (h : HostId) : running (hold h s) = running s := by
  unfold hold
  split
  · rfl
  · refine running_ite s rfl ?_
    unfold holdStation
    simp only []
    split
    · exact running_ite s rfl rfl
    · exact running_ite s rfl (running_ite s rfl (running_ite s rfl rfl))

theorem running_release (h : HostId) : running (release h s) = running s := by
  unfold release
  split
  · rfl
  · unfold releaseStation
    simp only []
    split
    · rfl
    · exact running_ite s (running_handOver s _) (running_ite s rfl rfl)

theorem running_expire (n : StationNo) (k : Hold) : running (expire n k s) = running s := running_handOver _ n

theorem running_tickLease (n : StationNo) : running (tickLease n s) = running s := by
  unfold tickLease
  split
  · rfl
  · exact running_ite s (running_expire s n _) rfl

theorem running_leaseExpiry (n : StationNo) : running (leaseExpiry n s) = running s := by
  unfold leaseExpiry
  split
  · rfl
  · exact running_ite s (running_expire s n _) (running_ite s rfl (running_tickLease _ n))

theorem running_foldl_handOverIfHeld (h : HostId) : ∀ (l : List StationNo) (s : State),
    running (l.foldl (handOverIfHeld h) s) = running s
  | [], _ => rfl
  | n :: l, s => (running_foldl_handOverIfHeld h l _).trans (running_ite s (running_handOver s n) rfl)

theorem running_resetStations (h : HostId) : running (resetStations h s) = running s :=
  running_foldl_handOverIfHeld h _ _

/-! ## The Poll List -/

theorem running_takeInstEnd (d : InstanceEnd) : running (takeInstEnd d s) = running s := by
  unfold takeInstEnd
  simp only []
  split
  · refine running_ite s ?_ rfl
    split
    · exact running_ite s rfl rfl
    · rfl
  all_goals rfl

theorem running_instanceEnd : running (instanceEnd s) = running s := by
  unfold instanceEnd
  split
  · rfl
  · exact running_takeInstEnd s _

theorem running_settleInstEnd (e : EntryNo) : running (settleInstEnd e s) = running s := by
  unfold settleInstEnd
  split
  · rfl
  · exact running_ite s (running_takeInstEnd s _) rfl

theorem running_resetEntries (h : HostId) : running (resetEntries h s) = running s := by
  have hsettled : running (settleOwnInstEnd h s) = running s := by
    unfold settleOwnInstEnd
    split
    · rfl
    · exact running_ite s (running_takeInstEnd s _) rfl
  exact hsettled

theorem running_readPoll (h : HostId) : running (readPoll h s) = running s := by
  unfold readPoll
  split <;> rfl

/-! ## The Line Engine and the time base -/

theorem running_takeCollision : running (takeCollision s) = running s := running_ite s rfl rfl

theorem running_takeFrameStart : running (takeFrameStart s) = running s := by
  unfold takeFrameStart
  split <;> rfl

theorem running_strayEnd (count : Stats → Stats) : running (strayEnd count s) = running s :=
  running_ite s rfl (running_ite s rfl rfl)

theorem running_takeRecovery : running (takeRecovery s) = running s := running_ite s rfl rfl

theorem running_resetSending : running (resetSending s) = running s :=
  running_ite s ((running_of_lineOnly (cut_lineOnly _)).trans rfl) rfl

theorem running_tickEngine : running (tickEngine s) = running s := running_ite s rfl rfl
theorem running_tick : running (tick s) = running s := running_ite s rfl (running_tickEngine s)

theorem running_clockPeriod : running (clockPeriod s) = running s := by
  refine running_ite s rfl ?_
  simp only [running]
  split <;> rfl

end

end Sys2Proof.ExchangeTable
end

section
/-! What a command may do to the exchanges on the line (R68) and to their attempts (R103): records rewritten, placed, granted, and ended. -/

namespace Sys2Proof.ExchangeTable

open Sys2Proof.Machine

/-! ## The invariants along a change of state -/

/-- A record's part of the invariant on attempts: none before the grant, never more than the retry limit plus one (R103). -/
def RecordOk (x : Exchange) : Prop :=
  (x.retryLimit ≤ 7 ∧ x.attempts ≤ x.retryLimit + 1) ∧ (x.state = .queued → x.attempts = 0)

theorem attemptsOk_iff (s : State) : AttemptsOk s ↔ (∀ i, RecordOk (s.slot i))
    ∧ ∀ i, s.engine.current = some i → s.engine.retryDue = true → (s.slot i).attempts ≤ (s.slot i).retryLimit := by
  simp only [AttemptsOk, RecordOk, forall_and, and_assoc]

/-- From `s` to `t` the settings stay in their ranges, at most one exchange stays on the line, and no exchange makes more attempts than its retry limit allows. -/
structure Keeps (s t : State) : Prop where
  settings : SettingsOk s → SettingsOk t
  one : OneOnLine s → OneOnLine t
  attempts : SettingsOk s → OneOnLine s → AttemptsOk s → AttemptsOk t

section
variable {s t u : State}

theorem Keeps.of_running (h : running t = running s) : Keeps s t := by
  obtain ⟨hslots, hcurrent, hretry, hend, hactive, hstaged⟩ := Running.mk.inj h
  refine ⟨fun hs => ?_, fun hs => ?_, fun _ _ hs => ?_⟩
  · simpa only [SettingsOk, hactive, hstaged] using hs
  · simpa only [OneOnLine, State.slot, hslots, hcurrent, hend] using hs
  · simpa only [AttemptsOk, State.slot, hslots, hcurrent, hretry] using hs

theorem Keeps.refl (s : State) : Keeps s s := ⟨id, id, fun _ _ => id⟩

theorem Keeps.trans (h : Keeps s t) (h' : Keeps t u) : Keeps s u :=
  ⟨h'.settings ∘ h.settings, h'.one ∘ h.one, fun hs ho ha =>
    h'.attempts (h.settings hs) (h.one ho) (h.attempts hs ho ha)⟩

/-- What follows and leaves the exchanges does not matter to them. -/
theorem Keeps.then_same (h : Keeps s t) (h' : running u = running t) : Keeps s u := h.trans (.of_running h')

/-- What came before and left the exchanges does not matter to them. -/
theorem Keeps.after_same (h' : running t = running s) (h : Keeps t u) : Keeps s u := (Keeps.of_running h').trans h

theorem Keeps.ite {p : Prop} [Decidable p] (ht : Keeps s t) (hu : Keeps s u) : Keeps s (if p then t else u) := by
  split
  · exact ht
  · exact hu

/-- A pass over a list keeps the invariants if each of its steps does. -/
theorem Keeps.foldl {α : Type} {f : State → α → State} (hf : ∀ s a, Keeps s (f s a)) :
    ∀ (l : List α) (s : State), Keeps s (l.foldl f s)
  | [], s => .refl s
  | a :: l, s => (hf s a).trans (Keeps.foldl hf l _)

end

/-! ## Records rewritten -/

/-- The record `x` may become `y`: on the line as before, its attempts within their limit, and untouched while it is there. -/
structure Rewritten (x y : Exchange) : Prop where
  line : onLine y ↔ onLine x
  ok : RecordOk x → RecordOk y
  same : onLine x → y.attempts = x.attempts ∧ y.retryLimit = x.retryLimit

section
variable {x y : Exchange}

theorem Rewritten.refl (x : Exchange) : Rewritten x x := ⟨Iff.rfl, id, fun _ => ⟨rfl, rfl⟩⟩

theorem Rewritten.of_same (hline : onLine y ↔ onLine x) (ha : y.attempts = x.attempts) (hl : y.retryLimit = x.retryLimit)
    (hq : y.state = .queued → x.state = .queued) : Rewritten x y :=
  ⟨hline, fun ⟨hlimit, hqueued⟩ => ⟨by rwa [ha, hl], fun hy => ha.trans (hqueued (hq hy))⟩, fun _ => ⟨ha, hl⟩⟩

/-- Fields that no rule of the line reads. -/
theorem Rewritten.of_state (hstate : y.state = x.state) (ha : y.attempts = x.attempts) (hl : y.retryLimit = x.retryLimit) :
    Rewritten x y := .of_same (by simp only [onLine, hstate]) ha hl hstate.symm.trans

theorem onLine_of_state {st : ExState} (h : x.state = st) : onLine x ↔ st = .active ∨ st = .orphan := by rw [onLine, h]

theorem not_onLine_of_state {st : ExState} (h : x.state = st) (hst : st = .free ∨ st = .queued ∨ st = .done) : ¬ onLine x := by
  rw [onLine_of_state h]
  rcases hst with rfl | rfl | rfl <;> decide

theorem freeExchange_offLine : ¬ onLine freeExchange := not_onLine_of_state rfl (.inl rfl)

theorem freeExchange_ok : RecordOk freeExchange := by simp [RecordOk, freeExchange]

theorem Rewritten.free (h : ¬ onLine x) : Rewritten x freeExchange :=
  ⟨iff_of_false freeExchange_offLine h, fun _ => freeExchange_ok, fun hx => absurd hx h⟩

end

section
variable {s t : State}

/-- Records rewritten and nothing else of the exchanges changed keeps the invariants; where a record takes its retry limit from the settings, these are in their ranges. -/
theorem Keeps.rewrite (hline : ∀ i, onLine (t.slot i) ↔ onLine (s.slot i))
    (hrecord : SettingsOk s → ∀ i, Rewritten (s.slot i) (t.slot i))
    (hrest : running { t with slots := s.slots } = running s) : Keeps s t := by
  obtain ⟨-, hcurrent, hretry, hend, hactive, hstaged⟩ := Running.mk.inj hrest
  simp only [] at hcurrent hretry hend hactive hstaged
  refine ⟨fun hs => ?_, fun hs => ?_, fun hs ho ha => ?_⟩
  · simpa only [SettingsOk, hactive, hstaged] using hs
  · simpa only [OneOnLine, hline, hcurrent, hend] using hs
  · rw [attemptsOk_iff] at ha ⊢
    refine ⟨fun i => (hrecord hs i).ok (ha.1 i), fun i hi hdue => ?_⟩
    rw [hcurrent] at hi
    obtain ⟨hattempts, hlimit⟩ := (hrecord hs i).same ((ho.1 i).2 (.inl hi))
    rw [hattempts, hlimit]
    exact ha.2 i hi (hretry ▸ hdue)

theorem Keeps.setSlot {i : SlotNo} {x : Exchange} (h : Rewritten (s.slot i) x) : Keeps s (s.setSlot i x) := by
  have hall : ∀ j, Rewritten (s.slot j) ((s.setSlot i x).slot j) := by
    intro j
    rw [State.setSlot_slot]
    split
    · next hj => exact hj ▸ h
    · exact .refl _
  exact .rewrite (fun j => (hall j).line) (fun _ => hall) rfl

/-- A record placed in a FREE slot, its retry limit from the arguments or the settings (R64, R66). -/
theorem place_keeps {i : SlotNo} {x : Exchange} (hfree : freeSlot s = some i) (hqueued : x.state = .queued)
    (hattempts : x.attempts = 0) (hlimit : SettingsOk s → x.retryLimit ≤ 7) : Keeps s (place i x s) := by
  have hslot : ¬ onLine (s.slot i) := not_onLine_of_state ((freeSlot_spec i s).1 hfree).1 (.inl rfl)
  have hplaced (j : SlotNo) : (place i x s).slot j = if i = j then { x with submission := s.submission } else s.slot j :=
    State.setSlot_slot s i _ j
  have hx : ¬ onLine { x with submission := s.submission } := not_onLine_of_state hqueued (.inr (.inl rfl))
  refine .rewrite (fun j => ?_) (fun hs j => ?_) rfl
  · rw [hplaced]
    split
    · next hj => exact iff_of_false hx (hj ▸ hslot)
    · rfl
  · rw [hplaced]
    split
    · next hj =>
      subst hj
      refine ⟨iff_of_false hx hslot, fun _ => ⟨⟨hlimit hs, ?_⟩, fun _ => hattempts⟩, fun hon => absurd hon hslot⟩
      exact le_of_eq_of_le hattempts (Nat.zero_le _)
    · exact .refl _

/-- The settings give no retry limit above 7 (R159). -/
theorem defaultRetries_le (hs : SettingsOk s) : s.active.defaultRetries ≤ 7 := by
  have h := hs.1
  simp only [settingsInRange, Bool.and_eq_true, decide_eq_true_eq] at h
  omega

theorem createInstance_keeps {e : EntryNo} {i : SlotNo} (hc : createInstance e s = some (i, t)) : Keeps s t := by
  unfold createInstance at hc
  split_ifs at hc
  split at hc
  · cases hc
  · next hfree =>
    cases hc
    exact place_keeps hfree rfl rfl defaultRetries_le

end

/-! ## SUBMIT, the end of work that was not granted, and a port reset -/

section
variable (s : State)

/-- A retry limit that SUBMIT's checks pass is at most 7 (R63). -/
theorem submitRecord_retryLimit {h : HostId} (hn : submitRefusal h s = none) (hs : SettingsOk s) :
    (submitRecord h s).retryLimit ≤ 7 := by
  unfold submitRefusal at hn
  simp only [] at hn
  split_ifs at hn with hparam
  simp only [submitRecord]
  split_ifs with hdefault
  · exact defaultRetries_le hs
  · by_contra hlarge
    exact hparam (.inr (.inr (.inr ⟨by omega, hdefault⟩)))

theorem submit_keeps (h : HostId) : Keeps s (submit h s) := by
  unfold submit
  split
  · exact .of_running rfl
  · next hn =>
    split
    · exact .of_running rfl
    · next hfree => exact (place_keeps hfree rfl rfl (submitRecord_retryLimit s hn)).then_same rfl

theorem enterDone_running (i : SlotNo) (x : Exchange) : running { enterDone i x s with slots := s.slots } = running s := by
  by_cases hroom : (s.queue x.owner).length < 16
  · rw [BufferPool.enterDone_posts i x s hroom]
    rfl
  · rw [BufferPool.enterDone_waits i x s hroom]
    rfl

/-- An exchange that was not on the line enters DONE, posted at once or left to the backlog (R70). -/
theorem endUngranted_keeps (o : ExOutcome) {i : SlotNo} (hq : (s.slot i).state = .queued) :
    Keeps s (enterDone i (endUngranted o (s.slot i)) s) := by
  have hslot : ¬ onLine (s.slot i) := not_onLine_of_state hq (.inr (.inl rfl))
  have hall : ∀ j, Rewritten (s.slot j) ((enterDone i (endUngranted o (s.slot i)) s).slot j) := by
    intro j
    rw [BufferPool.enterDone_slot]
    split_ifs with hj
    · exact hj ▸ .free hslot
    · subst hj
      refine .of_same (iff_of_false (not_onLine_of_state rfl (.inr (.inr rfl))) hslot) rfl rfl fun hd => ?_
      cases hd
    · exact .refl _
  exact .rewrite (fun j => (hall j).line) (fun _ => hall)
    (enterDone_running s i _)

theorem flushSlot_keeps (n : StationNo) (i : SlotNo) : Keeps s (flushSlot n s i) := by
  unfold flushSlot
  split_ifs with hf
  · simp only [flushable, Bool.and_eq_true, decide_eq_true_eq] at hf
    exact endUngranted_keeps s .stationDown hf.1.1
  · exact .refl s

theorem stationFlush_keeps : Keeps s (stationFlush s) := by
  unfold stationFlush
  split
  · exact .refl s
  · next n _ =>
    exact .after_same (t := s.setHand { s.hand with flush := none }) rfl (Keeps.foldl (fun t i => flushSlot_keeps t n i) _ _)

theorem revive_keeps (h : HostId) : Keeps s (revive h s) := by
  unfold revive
  split
  · exact .of_running rfl
  · exact .ite (Keeps.then_same (.ite (stationFlush_keeps s) (.refl s)) rfl) (.of_running rfl)

/-- The oldest of a backlog is a DONE exchange (R71). -/
theorem oldestBacklog_done {h : HostId} {i : SlotNo} (hi : oldestBacklog h s = some i) : (s.slot i).state = .done := by
  obtain ⟨hmem, -⟩ := oldest_some _ _ hi
  simp only [tfilter, List.mem_filter, inBacklog, Bool.and_eq_true, decide_eq_true_eq] at hmem
  exact hmem.2.1.1

theorem postFromBacklog_keeps (h : HostId) : Keeps s (postFromBacklog h s) := by
  unfold postFromBacklog
  split
  · exact .refl s
  · next i hi =>
    have hoff : ¬ onLine (s.slot i) := not_onLine_of_state (oldestBacklog_done s hi) (.inr (.inr rfl))
    exact (Keeps.setSlot (.free hoff)).then_same rfl

theorem popCompletion_keeps (h : HostId) : Keeps s (popCompletion h s) := by
  unfold popCompletion
  split
  · exact .of_running rfl
  · next rest _ =>
    have hposted : Keeps (s.setQueue h rest) (postFromBacklog h (s.setQueue h rest)) := postFromBacklog_keeps _ h
    exact .after_same (t := s.setQueue h rest) rfl (hposted.then_same rfl)

theorem resetSlot_keeps (h : HostId) (i : SlotNo) : Keeps s (resetSlot h s i) := by
  unfold resetSlot
  refine .ite (.refl s) ?_
  split
  · next hq _ => exact .after_same (t := unlend _ _) rfl (.setSlot (.free (not_onLine_of_state hq (.inr (.inl rfl)))))
  · next hq _ => exact .setSlot (.free (not_onLine_of_state hq (.inr (.inl rfl))))
  · next hd => exact .setSlot (.free (not_onLine_of_state hd (.inr (.inr rfl))))
  · next ha => exact .setSlot (.of_same (iff_of_true (.inr rfl) (.inl ha)) rfl rfl fun h => by cases h)
  · exact .refl s

/-! ## The Poll List's instances (R66, R67, R76) -/

theorem due_keeps (e : EntryNo) : Keeps s (due e s) := by
  unfold due
  refine .ite (.of_running rfl) (.ite (.of_running rfl) ?_)
  split
  · next hc => exact (createInstance_keeps hc).then_same rfl
  · exact .of_running rfl

theorem pollDue_keeps (e : EntryNo) : Keeps s (pollDue e s) := by
  have htick (t : State) : Keeps t (tickEntry e t) :=
    .ite (.ite (.after_same (t := t.setEntry e _) rfl (due_keeps _ e)) (.of_running rfl)) (.of_running rfl)
  exact .ite (htick s) (.ite (.refl s) (.after_same (t := noteEntryTaken e s) rfl (htick _)))

theorem pollStart_keeps (h : HostId) : Keeps s (pollStart h s) := by
  unfold pollStart
  split
  · exact .of_running rfl
  · split
    · exact .of_running rfl
    · next e _ =>
      have hlent : running (lend (.entry e) (pollStartEntry h s).requestBuffer (pollStartEntry h s).snapshotBuffer
          (s.setEntry e (pollStartEntry h s))) = running s := rfl
      have harm : Keeps s (arm h e s) := .ite (.after_same hlent (due_keeps _ e)) (.of_running rfl)
      exact harm.then_same rfl

theorem pollRetime_keeps (h : HostId) : Keeps s (pollRetime h s) := by
  unfold pollRetime
  split
  · exact .of_running rfl
  · next e _ =>
    have hretime (period first : Word16) : Keeps s (retime e period first s) :=
      .ite (.after_same (t := s.setEntry e _) rfl (due_keeps _ e)) (.of_running rfl)
    exact .ite (.of_running rfl) (.ite (.of_running rfl) (.ite (.of_running rfl) ((hretime _ _).then_same rfl)))

theorem stopArmed_keeps (h : HostId) (e : EntryNo) : Keeps s (stopArmed h e s) := by
  unfold stopArmed
  split
  · exact .of_running rfl
  · next i _ =>
    split_ifs with hruns hqueued
    · have hline : onLine (s.slot i) := ((BufferPool.runsFor_iff e _).1 hruns).2
      have horphan : Keeps s (s.setSlot i { s.slot i with state := .orphan }) :=
        .setSlot (.of_same (iff_of_true (.inr rfl) hline) rfl rfl fun h => by cases h)
      exact horphan.then_same rfl
    · exact (Keeps.setSlot (.free (not_onLine_of_state hqueued.2 (.inr (.inl rfl))))).then_same rfl
    · exact .of_running rfl

theorem pollStop_keeps (h : HostId) : Keeps s (pollStop h s) := by
  unfold pollStop
  split
  · exact .of_running rfl
  · next e _ =>
    refine .ite (.of_running rfl) (.after_same (running_settleInstEnd s e) ?_)
    exact .ite (.of_running rfl) (.ite (.of_running rfl) (stopArmed_keeps _ h e))

end

end Sys2Proof.ExchangeTable
end

section
/-! The ends of exchanges (R69, R70, R77, R105) and their grants (R68, R88, R96, R103), for the exchanges on the line and their attempts. -/

namespace Sys2Proof.ExchangeTable

open Sys2Proof.Machine

/-! ## The taking of an end (R69, R70, R77) -/

/-- The state with the end handed to the table taken from it. -/
def endTaken (s : State) : State := s.setHand { s.hand with exchangeEnd := none }

/-- The state with the end of a poll's exchange handed to its entry (R70, R77). -/
def handedBack (e : ExchangeEnd) (p : EntryNo) (x : Exchange) (s : State) : State :=
  s.setHand { s.hand with exchangeEnd := none, instEnd := some (instEndOf e p x) }

section
variable {e : ExchangeEnd} {s : State}

theorem takeEnd_done (hstate : (s.slot e.slot).state = .active) (horigin : (s.slot e.slot).origin = .host) :
    takeEnd e s = enterDone e.slot (withEnd e (s.slot e.slot)) (endTaken s) := by
  simp only [takeEnd, hstate, horigin, endTaken]

theorem takeEnd_orphan (hstate : (s.slot e.slot).state = .orphan) (horigin : (s.slot e.slot).origin = .host) :
    takeEnd e s = (unlend (.slot e.slot) (endTaken s)).setSlot e.slot freeExchange := by
  simp only [takeEnd, hstate, horigin, endTaken]

theorem takeEnd_instance {p : EntryNo} (hline : onLine (s.slot e.slot)) (horigin : (s.slot e.slot).origin = .poll p) :
    takeEnd e s = (handedBack e p (s.slot e.slot) s).setSlot e.slot freeExchange := by
  rcases hline with hstate | hstate <;>
    simp only [takeEnd, hstate, horigin, handedBack, State.setHand_setHand, State.setHand_hand]

theorem takeEnd_offLine (hoff : ¬ onLine (s.slot e.slot)) : takeEnd e s = endTaken s := by
  obtain ⟨hactive, horphan⟩ := not_or.1 hoff
  unfold takeEnd
  simp only []
  split
  case h_5 => rfl
  all_goals contradiction

/-- The exchange whose end is taken leaves the line. -/
theorem Keeps.leaves {t : State} (hend : s.hand.exchangeEnd = some e) (hothers : ∀ j, j ≠ e.slot → t.slot j = s.slot j)
    (hoff : ¬ onLine (t.slot e.slot)) (hok : RecordOk (s.slot e.slot) → RecordOk (t.slot e.slot))
    (hrest : running { t with slots := s.slots } = running (endTaken s)) : Keeps s t := by
  obtain ⟨-, hcurrent, -, htaken, hactive, hstaged⟩ := Running.mk.inj hrest
  simp only [endTaken, State.setHand_engine, State.setHand_hand, State.setHand_active, State.setHand_staged]
    at hcurrent htaken hactive hstaged
  have hnone (ho : OneOnLine s) : t.engine.current = none := by
    rw [hcurrent]
    exact ho.2.resolve_right (by simp [hend])
  refine ⟨fun hs => ?_, fun ho => ⟨fun i => ?_, .inr htaken⟩, fun hs ho ha => ?_⟩
  · simpa only [SettingsOk, hactive, hstaged] using hs
  · refine iff_of_false (fun hi => ?_) (by simp [hnone ho, htaken])
    by_cases hie : i = e.slot
    · exact hoff (hie ▸ hi)
    · rw [hothers i hie, ho.1 i, ← hcurrent, hnone ho, hend] at hi
      simp [Ne.symm hie] at hi
  · rw [attemptsOk_iff] at ha ⊢
    refine ⟨fun i => ?_, fun i hi => by simp [hnone ho] at hi⟩
    by_cases hie : i = e.slot
    · exact hie ▸ hok (ha.1 e.slot)
    · exact hothers i hie ▸ ha.1 i

/-- The record of an exchange whose end is taken, its slot made FREE. -/
theorem Keeps.freed {t : State} (hend : s.hand.exchangeEnd = some e)
    (hslots : ∀ j, t.slot j = if e.slot = j then freeExchange else s.slot j)
    (hrest : running { t with slots := s.slots } = running (endTaken s)) : Keeps s t := by
  have hself : t.slot e.slot = freeExchange := (hslots _).trans (if_pos rfl)
  refine .leaves hend (fun j hj => (hslots j).trans (if_neg hj.symm)) ?_ (fun _ => ?_) hrest <;> rw [hself]
  · exact freeExchange_offLine
  · exact freeExchange_ok

theorem takeEnd_keeps (hend : s.hand.exchangeEnd = some e) : Keeps s (takeEnd e s) := by
  by_cases hline : onLine (s.slot e.slot)
  · cases horigin : (s.slot e.slot).origin with
    | poll p =>
      rw [takeEnd_instance hline horigin]
      exact .freed hend (State.setSlot_slot _ _ _) rfl
    | host =>
      rcases hline with hstate | hstate
      · rw [takeEnd_done hstate horigin]
        have hslots := BufferPool.enterDone_slot e.slot (withEnd e (s.slot e.slot)) (endTaken s)
        refine .leaves hend (fun j hj => (hslots j).trans (if_neg hj.symm)) ?_ (fun hok => ?_) (enterDone_running _ _ _) <;>
          rw [hslots, if_pos rfl] <;> split
        · exact freeExchange_offLine
        · exact not_onLine_of_state rfl (.inr (.inr rfl))
        · exact freeExchange_ok
        · exact ⟨hok.1, fun hq => by cases hq⟩
      · rw [takeEnd_orphan hstate horigin]
        exact .freed hend (State.setSlot_slot _ _ _) rfl
  · rw [takeEnd_offLine hline]
    exact .leaves hend (fun _ _ => rfl) hline id rfl

theorem exchangeEndTaken_keeps (s : State) : Keeps s (exchangeEndTaken s) := by
  unfold exchangeEndTaken
  split
  · exact .refl s
  · next hend => exact takeEnd_keeps hend

theorem settleEnd_keeps (i : SlotNo) (s : State) : Keeps s (settleEnd i s) := by
  unfold settleEnd
  split
  · exact .refl s
  · next hend => exact .ite (takeEnd_keeps hend) (.refl s)

theorem cancelSlot_keeps (h : HostId) (i : SlotNo) (s : State) : Keeps s (cancelSlot h i s) := by
  unfold cancelSlot
  refine .ite (.of_running rfl) ?_
  split
  · next hq => exact (endUngranted_keeps s .cancelled hq).then_same rfl
  · have hrequested : Keeps s (s.setSlot i { s.slot i with cancelRequested := true }) := .setSlot (.of_state rfl rfl rfl)
    exact hrequested.then_same rfl
  · exact .of_running rfl

theorem cancel_keeps (h : HostId) (s : State) : Keeps s (cancel h s) := by
  unfold cancel
  split
  · exact .of_running rfl
  · exact (settleEnd_keeps _ s).trans (cancelSlot_keeps h _ _)

end

/-! ## The end of an attempt and of an exchange (R103, R105) -/

section
variable {s : State}

/-- The current exchange's end goes to the table, where none waits: no other exchange is on the line. -/
theorem exchangeEnd_keeps {i : SlotNo} (hi : s.engine.current = some i) (r : AttemptResult) : Keeps s (exchangeEnd i r s) := by
  refine ⟨id, fun ho => ⟨fun j => ?_, .inl rfl⟩, fun _ _ ha => ?_⟩
  · have hnone : s.hand.exchangeEnd = none := ho.2.resolve_left (by simp [hi])
    refine (ho.1 j).trans ?_
    simp [exchangeEnd, endOf, hi, hnone]
  · rw [attemptsOk_iff] at ha ⊢
    exact ⟨ha.1, fun j hj => by cases hj⟩

/-- A retry is due where attempts are left (R103). -/
theorem retryDue_keeps {i : SlotNo} (hi : s.engine.current = some i) (hleft : (s.slot i).attempts ≤ (s.slot i).retryLimit) :
    Keeps s (s.setEngine { s.engine with retryDue := true }) := by
  refine ⟨id, id, fun _ _ ha => ?_⟩
  rw [attemptsOk_iff] at ha ⊢
  refine ⟨ha.1, fun j hj _ => ?_⟩
  obtain rfl : i = j := Option.some.inj (hi.symm.trans hj)
  exact hleft

theorem retryIsDue_left {r : AttemptResult} {x : Exchange} (hr : retryIsDue r x = true) : x.attempts ≤ x.retryLimit := by
  simp only [retryIsDue, Bool.and_eq_true, decide_eq_true_eq] at hr
  omega

/-- The state with the result of slot `i`'s attempt recorded, before its end (R103). -/
def resultRecorded (i : SlotNo) (r : AttemptResult) (s : State) : State :=
  (s.setSlot i { s.slot i with lastResult := some r }).setEngine { s.engine with decided := none }

theorem resultRecorded_keeps (i : SlotNo) (r : AttemptResult) : Keeps s (resultRecorded i r s) := by
  have hresult : Keeps s (s.setSlot i { s.slot i with lastResult := some r }) := .setSlot (.of_state rfl rfl rfl)
  exact hresult.then_same rfl

theorem attemptEnd_eq {i : SlotNo} (hi : s.engine.current = some i) (r : AttemptResult) : attemptEnd r s =
    if retryIsDue r (s.slot i) then
      (resultRecorded i r s).setEngine { (resultRecorded i r s).engine with retryDue := true }
    else exchangeEnd i r (resultRecorded i r s) := by
  unfold attemptEnd
  rw [hi]
  rfl

theorem attemptEnd_keeps (r : AttemptResult) (s : State) : Keeps s (attemptEnd r s) := by
  cases hi : s.engine.current with
  | none => rw [attemptEnd, hi]; exact .refl s
  | some i =>
    have hcurrent : (resultRecorded i r s).engine.current = some i := hi
    rw [attemptEnd_eq hi]
    refine (resultRecorded_keeps i r).trans ?_
    split_ifs with hr
    · refine retryDue_keeps hcurrent ?_
      simpa [resultRecorded] using retryIsDue_left hr
    · exact exchangeEnd_keeps hcurrent r

/-- The end of an attempt after a change that leaves the exchanges. -/
theorem attemptEnd_after {t : State} (h : running t = running s) (r : AttemptResult) : Keeps s (attemptEnd r t) :=
  .after_same h (attemptEnd_keeps r t)

@[simp] theorem running_enterQuiet (frame : Bool) (s : State) : running (enterQuiet frame s) = running s := rfl
@[simp] theorem running_enterStuck (s : State) : running (enterStuck s) = running s := rfl
@[simp] theorem running_stopTimer (s : State) : running (stopTimer s) = running s := rfl
@[simp] theorem running_setStats (x : Stats) (s : State) : running (s.setStats x) = running s := rfl
@[simp] theorem running_latchAll (src : NoticeSource) (s : State) : running (latchAll src s) = running s := rfl

end

/-! ## The reports of the Line Interface -/

section
variable (s : State)

/-- A report taken keeps the invariants if what takes it does. -/
theorem withReport_keeps {act : Report → State → Option State} (h : ∀ r t u, act r t = some u → Keeps t u) :
    Keeps s (withReport s act) := by
  unfold withReport
  split
  · exact .refl s
  · next r rest _ =>
    cases hu : act r (s.setLif { s.lif with reports := rest }) with
    | none => exact .refl s
    | some u => exact .after_same (t := s.setLif { s.lif with reports := rest }) rfl (h _ _ _ hu)

/-- A sent frame counted, and its exchange marked as transmitted (R97). -/
def sentCounted (i : SlotNo) (s : State) : State :=
  (s.setStats { s.stats with framesSent := bump s.stats.framesSent }).setSlot i { s.slot i with transmitted := true }

theorem sentCounted_keeps (i : SlotNo) : Keeps s (sentCounted i s) :=
  .after_same (running_setStats _ s) (.setSlot (.of_state rfl rfl rfl))

theorem sentInSending_keeps (i : SlotNo) : Keeps s (sentInSending i s) := by
  have hended (r : AttemptResult) :
      Keeps s (attemptEnd r (enterQuiet (sentCounted i s).engine.frameInProgress (sentCounted i s))) :=
    (sentCounted_keeps s i).trans (attemptEnd_after (running_enterQuiet _ _) r)
  unfold sentInSending
  simp only []
  split
  · exact hended _
  · exact .ite (hended _) ((sentCounted_keeps s i).then_same rfl)

theorem takeSent_keeps : Keeps s (takeSent s) := by
  unfold takeSent
  split
  · exact sentInSending_keeps s _
  · exact .refl s

theorem takeCutComplete_keeps : Keeps s (takeCutComplete s) :=
  .ite (attemptEnd_after (running_enterQuiet _ s) _) (.refl s)

theorem acceptFrame_keeps (i : SlotNo) (f : FrameInfo) : Keeps s (acceptFrame i f s) := by
  have hkept : running (BufferPool.replyKept i f s) = running s := rfl
  by_cases h : (s.slot i).replyBuffer = none ∨ f.length = 0
  · rw [BufferPool.acceptFrame_ends h]
    exact attemptEnd_after hkept _
  · obtain ⟨hb, hf⟩ := not_or.1 h
    obtain ⟨b, hb⟩ := Option.ne_none_iff_exists'.1 hb
    have hclaimed (t : State) : running (BufferPool.copyClaimed b f.length t) = running t := rfl
    rw [BufferPool.acceptFrame_claims hb hf]
    exact .of_running ((hclaimed _).trans hkept)

theorem takeFrameComplete_keeps (f : FrameInfo) : Keeps s (takeFrameComplete f s) := by
  unfold takeFrameComplete
  split
  · unfold completeInReceiving
    split
    · exact .of_running rfl
    · exact .of_running rfl
    · exact acceptFrame_keeps s _ f
  · exact .of_running (running_strayEnd s id)

theorem takeBadFrame_keeps (r : BadReason) : Keeps s (takeBadFrame r s) := by
  unfold takeBadFrame
  split
  · exact attemptEnd_after (by simp) _
  · exact .of_running (running_strayEnd s _)

theorem takeStuck_keeps : Keeps s (takeStuck s) := by
  have hparked : running (stopTimer (enterStuck (FieldLine.stuckCounted s))) = running s := by
    simp [FieldLine.stuckCounted]
  cases hstate : s.engine.state with
  | quiet => rw [FieldLine.takeStuck_parks (.inl hstate)]; exact .of_running rfl
  | idle => rw [FieldLine.takeStuck_parks (.inr hstate)]; exact .of_running rfl
  | sending => rw [FieldLine.takeStuck_sending hstate]; exact .of_running rfl
  | awaiting => rw [FieldLine.takeStuck_endsAttempt (.inl hstate)]; exact attemptEnd_after hparked _
  | receiving => rw [FieldLine.takeStuck_endsAttempt (.inr hstate)]; exact attemptEnd_after hparked _
  | stuck => simp only [takeStuck, hstate]; exact .of_running rfl

theorem sentReport_keeps : Keeps s (sentReport s) := by
  refine withReport_keeps s fun r t u hu => ?_
  cases r <;> cases hu
  exact takeSent_keeps t

theorem collisionReport_keeps : Keeps s (collisionReport s) := by
  refine withReport_keeps s fun r t u hu => ?_
  cases r <;> cases hu
  exact .of_running (running_takeCollision t)

theorem cutCompleteReport_keeps : Keeps s (cutCompleteReport s) := by
  refine withReport_keeps s fun r t u hu => ?_
  cases r <;> cases hu
  exact takeCutComplete_keeps t

theorem frameStartReport_keeps : Keeps s (frameStartReport s) := by
  refine withReport_keeps s fun r t u hu => ?_
  cases r <;> cases hu
  exact .of_running (running_takeFrameStart t)

theorem frameCompleteReport_keeps : Keeps s (frameCompleteReport s) := by
  refine withReport_keeps s fun r t u hu => ?_
  cases r <;> cases hu
  exact takeFrameComplete_keeps t _

theorem badFrameReport_keeps : Keeps s (badFrameReport s) := by
  refine withReport_keeps s fun r t u hu => ?_
  cases r <;> cases hu
  exact takeBadFrame_keeps t _

theorem stuckReport_keeps : Keeps s (stuckReport s) := by
  refine withReport_keeps s fun r t u hu => ?_
  cases r <;> cases hu
  exact takeStuck_keeps t

theorem recoveryReport_keeps : Keeps s (recoveryReport s) := by
  refine withReport_keeps s fun r t u hu => ?_
  cases r <;> cases hu
  exact .of_running (running_takeRecovery t)

/-! ## The reply timer, LINE_RESET, the settings, the arbiter -/

theorem replyTimerExpiry_keeps : Keeps s (replyTimerExpiry s) := by
  have hcounted (x : Stats) (t : State) : running ((t.setStats x).setEngine { t.engine with timer := ⟨0, false, false⟩ }) =
      running t := rfl
  have hexpired (t : State) : Keeps t (noReply t) :=
    attemptEnd_after ((running_enterQuiet t.engine.frameInProgress _).trans (hcounted _ t)) .noReply
  have htick (t : State) : Keeps t (tickTimer t) :=
    .ite (.ite (hexpired t) (.of_running rfl)) (.of_running rfl)
  exact .ite (htick s) (.ite (.refl s) (.after_same (t := noteReplyTaken s) rfl (htick _)))

theorem lineReset_keeps (h : HostId) : Keeps s (lineReset h s) := by
  have haborted (frame : Bool) : Keeps s (attemptEnd .aborted (enterQuiet frame (stopTimer s))) :=
    attemptEnd_after ((running_enterQuiet frame _).trans (running_stopTimer s)) _
  unfold lineReset
  split
  case h_3 => exact .of_running (running_resetSending s)
  case h_4 => exact (haborted false).then_same rfl
  case h_5 => exact (haborted true).then_same rfl
  all_goals exact .of_running rfl

/-- A record in its ranges becomes the active one (R160, R161). -/
theorem applySettings_keeps {x : Settings} (hx : SettingsOk s → settingsInRange x = true) : Keeps s (applySettings x s) :=
  ⟨fun hs => ⟨hx hs, hs.2⟩, id, fun _ _ => id⟩

theorem setSettings_keeps (h : HostId) : Keeps s (setSettings h s) := by
  unfold setSettings
  simp only []
  split_ifs with hrange hidle
  · exact .of_running rfl
  · simp only [Bool.not_eq_true', Bool.not_eq_false] at hrange
    exact (applySettings_keeps s fun _ => hrange).then_same rfl
  · simp only [Bool.not_eq_true', Bool.not_eq_false] at hrange
    refine ⟨fun hs => ⟨hs.1, fun x hx => ?_⟩, id, fun _ _ => id⟩
    cases hx
    exact hrange

theorem applyStaged_keeps : Keeps s (applyStaged s) := by
  unfold applyStaged
  split
  · exact .refl s
  · next x hx => exact ⟨fun hs => ⟨hs.2 x hx, fun y hy => by cases hy⟩, id, fun _ _ => id⟩

theorem enterIdle_keeps : Keeps s (enterIdle s) :=
  .after_same (t := s.setEngine { s.engine with state := .idle }) rfl ((applyStaged_keeps _).then_same rfl)

theorem arbiterServe_keeps : Keeps s (arbiterServe s) := by
  rcases arbiterServe_cases s with ⟨-, h⟩ | ⟨c, -, -, h⟩ | ⟨k, c, -, -, -, -, h⟩ | ⟨-, -, -, h⟩ <;> rw [h]
  · exact .refl s
  · cases c with
    | fetch b offset => exact .of_running rfl
    | copy b length => 
      have hcopied : running (BufferPool.copied b length s) = running s := rfl
      exact attemptEnd_after hcopied (copiedResult (BufferPool.copied b length s))
  · exact .after_same (t := takeClaim k c s) rfl (.of_running (running_serveClaim _ k c))
  · exact .refl s

end

/-! ## The beginning of an attempt (R96, R103, R104) -/

section
variable {s : State}

/-- The record of an exchange with one more attempt made. -/
def attempted (x : Exchange) : Exchange := { x with attempts := x.attempts + 1 }

/-- One more attempt of an exchange on the line that has attempts left. -/
theorem attempted_ok {x : Exchange} (hline : onLine x) (hleft : x.attempts ≤ x.retryLimit) (hok : RecordOk x) :
    RecordOk (attempted x) :=
  ⟨⟨hok.1.1, Nat.succ_le_succ hleft⟩, fun hq => absurd hline (not_onLine_of_state hq (.inr (.inl rfl)))⟩

theorem running_beginAttempt (i : SlotNo) (first : Bool) : running (beginAttempt i first s) =
    running (s.setSlot i (attempted (s.slot i))) :=
  (running_of_lineOnly (takeOrder_lineOnly _ _)).trans rfl

theorem retryTaken_keeps : Keeps s (FieldLine.retryTaken s) := by
  refine ⟨id, id, fun _ _ ha => ?_⟩
  rw [attemptsOk_iff] at ha ⊢
  exact ⟨ha.1, fun i _ hdue => by cases hdue⟩

/-- The retry of the current exchange: one more attempt of those left, and no retry due. -/
theorem retry_keeps {i : SlotNo} (hi : s.engine.current = some i) (hdue : s.engine.retryDue = true) :
    Keeps s (beginAttempt i false (FieldLine.retryTaken s)) := by
  refine Keeps.then_same ?_ (running_beginAttempt i false)
  have hslot (j : SlotNo) : ((FieldLine.retryTaken s).setSlot i (attempted ((FieldLine.retryTaken s).slot i))).slot j =
      if i = j then attempted (s.slot i) else s.slot j := State.setSlot_slot _ i _ j
  refine ⟨id, fun ho => ⟨fun j => ?_, ho.2⟩, fun _ ho ha => ?_⟩
  · refine Iff.trans ?_ (ho.1 j)
    rw [hslot]
    split
    · next hij => exact hij ▸ Iff.rfl
    · rfl
  · rw [attemptsOk_iff] at ha ⊢
    refine ⟨fun j => ?_, fun j _ hd => by cases hd⟩
    rw [hslot]
    split
    · exact attempted_ok ((ho.1 i).2 (.inl hi)) (ha.2 i hi hdue) (ha.1 i)
    · exact ha.1 j

theorem retryOrEnd_keeps {i : SlotNo} (hi : s.engine.current = some i) (hdue : s.engine.retryDue = true) :
    Keeps s (retryOrEnd i s) :=
  have hcurrent : (FieldLine.retryTaken s).engine.current = some i := hi
  .ite ((retryTaken_keeps.trans (exchangeEnd_keeps hcurrent _)).trans (enterIdle_keeps _)) (retry_keeps hi hdue)

theorem guardRunOut_keeps (s : State) : Keeps s (guardRunOut s) := by
  have hzero : running (FieldLine.guardAtZero s) = running s := rfl
  refine .ite (.ite (.of_running hzero) (.after_same hzero ?_)) (.refl s)
  split
  · next hdue hi => exact retryOrEnd_keeps hi hdue
  · exact enterIdle_keeps _

/-! ## The grant (R68, R85, R88 to R90) -/

/-- The scheduler chooses among the QUEUED exchanges (R83, R85). -/
theorem choose_queued {c : ExClass} {i : SlotNo} (hc : choose s = some (c, i)) : (s.slot i).state = .queued := by
  obtain ⟨k, -, hk⟩ := List.exists_of_findSome?_eq_some hc
  obtain ⟨j, hj, hki⟩ := Option.map_eq_some_iff.1 hk
  cases hki
  obtain ⟨h, -, hh⟩ := List.exists_of_findSome?_eq_some hj
  obtain ⟨hmem, -⟩ := oldest_some _ _ hh
  exact ((mem_candidates _ _ _ _).1 hmem).1.1

/-- An exchange passed over ages, and stands QUEUED as before (R89, R90). -/
theorem Rewritten.aged (limit : Nat) (x : Exchange) : Rewritten x (aged limit x) := by
  unfold Machine.aged
  simp only []
  split_ifs <;> exact .of_state rfl rfl rfl

/-- The grant but for its attempt: slot `i` ACTIVE and the engine's current exchange, the others aged (R88 to R90). -/
def granted (c : ExClass) (i : SlotNo) (s : State) : State :=
  { s with
    slots := tmap (afterGrant s i) s.slots
    pointers := s.pointers.put c ((s.slot i).owner + 1)
    engine := { s.engine with current := some i } }

theorem granted_slot (c : ExClass) (i j : SlotNo) : (granted c i s).slot j = afterGrant s i j (s.slot j) := tget_tmap _ _ j

theorem running_grant (c : ExClass) (i : SlotNo) : running (grant c i s) =
    running ((granted c i s).setSlot i (attempted ((granted c i s).slot i))) := running_beginAttempt i true

/-- With no exchange on the line, the one granted is the only one there, at its first attempt. -/
theorem grant_keeps {c : ExClass} {i : SlotNo} (hq : (s.slot i).state = .queued) (hcurrent : s.engine.current = none)
    (hend : s.hand.exchangeEnd = none) (hretry : s.engine.retryDue = false) : Keeps s (grant c i s) := by
  refine Keeps.then_same ?_ (running_grant c i)
  have hself : (granted c i s).slot i = { s.slot i with state := .active } := (granted_slot c i i).trans (if_pos rfl)
  have hothers {j : SlotNo} (hj : i ≠ j) : Rewritten (s.slot j) ((granted c i s).slot j) := by
    rw [granted_slot, afterGrant, if_neg (Ne.symm hj)]
    split
    · exact .aged _ _
    · exact .refl _
  have hslot (j : SlotNo) : ((granted c i s).setSlot i (attempted ((granted c i s).slot i))).slot j =
      if i = j then attempted { s.slot i with state := .active } else (granted c i s).slot j := by
    rw [State.setSlot_slot, hself]
  refine ⟨id, fun ho => ⟨fun j => ?_, .inr hend⟩, fun _ _ ha => ?_⟩
  · have hnone : ¬ onLine (s.slot j) := by simp [ho.1 j, hcurrent, hend]
    rw [hslot]
    split
    · next hij => exact hij ▸ iff_of_true (.inl rfl) (.inl rfl)
    · next hij =>
      rw [(hothers hij).line]
      exact iff_of_false hnone (by simp [granted, hij, hend])
  · rw [attemptsOk_iff] at ha ⊢
    refine ⟨fun j => ?_, fun j _ hd => ?_⟩
    · rw [hslot]
      split
      · obtain ⟨hlimit, hnever⟩ := ha.1 i
        exact ⟨⟨hlimit.1, by simp [attempted, hnever hq]⟩, fun h => by cases h⟩
      · next hij => exact (hothers hij).ok (ha.1 j)
    · exact absurd (hretry.symm.trans hd) (by decide)

end

/-- In IDLE no exchange is the engine's current one, and no retry is due (R93). -/
theorem idle_of_engineOk {s : State} (hs : EngineOk s) (hidle : s.engine.state = .idle) :
    s.engine.current = none ∧ s.engine.retryDue = false := by
  obtain ⟨hstate, -, -⟩ := hs
  rw [hidle] at hstate
  exact ⟨hstate.1, hstate.2.1⟩

theorem schedulerRun_keeps {s : State} (hs : EngineOk s) : Keeps s (schedulerRun s) := by
  unfold schedulerRun
  split_ifs with hidle htaken
  · obtain ⟨hcurrent, hretry⟩ := idle_of_engineOk hs hidle
    have hend : s.hand.exchangeEnd = none := ((endsTaken_iff s).1 htaken).1
    have hasked : running (s.setHand { s.hand with runAsked := false }) = running s := rfl
    simp only []
    split
    · exact .of_running hasked
    · next c i hc => exact .after_same hasked (grant_keeps (choose_queued hc) hcurrent hend hretry)
  · exact .refl s
  · exact .of_running rfl

end Sys2Proof.ExchangeTable
end

section
/-! One exchange at most on the line, its attempts within their limit (R68, R103), along every command and every step. -/

namespace Sys2Proof.ExchangeTable

open Sys2Proof.Machine

/-! ## Every command -/

/-- A command that goes on keeps the invariants. -/
def Goes (s : State) (o : Host.Outcome State Fault Refusal) : Prop := ∀ t, o = .next t → Keeps s t

section
variable {s : State}

theorem goes_next {t : State} (h : Keeps s t) : Goes s (.next t) := fun _ ht => Host.Outcome.next.inj ht ▸ h

/-- An access that is served, abandoned, or waits at its port. -/
theorem goes_served {c : Instr} {h : HostId} {act : State → State} (ha : Keeps s (act s)) : Goes s (served c h s act) :=
  goes_next (.ite ha (.ite (.refl s) (.of_running rfl)))

theorem goes_internal {act : State → State} (ha : Keeps s (act s)) : Goes s (internal s act) :=
  goes_next (.ite (.refl s) ha)

/-- A part of a release, by what the block does in it. -/
theorem goes_releasePart {h : HostId} {part next : ReleasePart} {act : State → State} (ha : Keeps s (act s)) :
    Goes s (internal s (releasePart h part next act)) := goes_internal (.ite (ha.then_same rfl) (.refl s))

theorem goes_lineOnly {act : State → State} (ha : LineOnly s (act s)) : Goes s (internal s act) :=
  goes_internal (.of_running (running_of_lineOnly ha))

end

section
variable (h : HostId) (s : State)

theorem issue_keeps (c : HostCommand) : Keeps s (issue h c s) := by
  cases c with
  | submit => exact submit_keeps s h
  | cancel => exact cancel_keeps h s
  | revive => exact revive_keeps s h
  | pollStart => exact pollStart_keeps s h
  | pollRetime => exact pollRetime_keeps s h
  | pollStop => exact pollStop_keeps s h
  | popCompletion => exact popCompletion_keeps s h
  | setSettings => exact setSettings_keeps s h
  | lineReset => exact lineReset_keeps s h
  | bufAlloc => exact .of_running (running_bufAlloc s h)
  | bufFree => exact .of_running (running_bufFree s h)
  | readExchange => exact .of_running (running_readExchange s h)
  | readStation => exact .of_running (running_readStation s h)
  | subscribe => exact .of_running (running_subscribe s h)
  | unsubscribe => exact .of_running (running_unsubscribe s h)
  | hold => exact .of_running (running_hold s h)
  | release => exact .of_running (running_release s h)
  | readPoll => exact .of_running (running_readPoll s h)
  | readSettings => exact .of_running rfl
  | readLine => exact .of_running rfl
  | clearStats => exact .of_running rfl

theorem commandWrite_keeps (code : Byte) : Keeps s (commandWrite h code s) := by
  unfold commandWrite
  split
  · exact .of_running rfl
  · exact issue_keeps h s _

theorem portRegisterWrite_keeps (location : BitVec 7) (value : Byte) :
    Keeps s (portRegisterWrite h location value s) := by
  unfold portRegisterWrite locationWrite
  split_ifs
  · exact .of_running rfl
  · exact .of_running rfl
  · exact commandWrite_keeps h s value
  · exact .of_running rfl
  · split
    · exact .of_running rfl
    · exact .refl s

end

/-- At power-on no exchange is on the line, and every slot is FREE (R57, R93, R159). -/
theorem powerOnReset_keeps (s : State) : Keeps s (powerOnReset s) := by
  have hreset : running (powerOnReset s) = running State.reset := rfl
  have hfree (i : SlotNo) : State.reset.slot i = freeExchange := tget_replicate _ _
  refine .then_same (t := State.reset) ⟨fun _ => ⟨by decide, fun x hx => by cases hx⟩, fun _ => ⟨fun i => ?_, .inl rfl⟩,
    fun _ _ _ => (attemptsOk_iff _).2 ⟨fun i => ?_, fun i hi => by cases hi⟩⟩ hreset
  · rw [hfree]
    exact iff_of_false freeExchange_offLine (by simp [State.reset, freshEngine, noHandOvers])
  · rw [hfree]
    exact freeExchange_ok

/-- Every command keeps the invariants; a grant does since in IDLE the engine has no exchange (R93). -/
theorem exec_keeps {s : State} (hs : EngineOk s) (c : Instr) : Goes s (exec c s) := by
  cases c with
  | bufAlloc h => exact goes_served (issue_keeps h s .bufAlloc)
  | bufFree h => exact goes_served (issue_keeps h s .bufFree)
  | submit h => exact goes_served (issue_keeps h s .submit)
  | cancel h => exact goes_served (issue_keeps h s .cancel)
  | readExchange h => exact goes_served (issue_keeps h s .readExchange)
  | readStation h => exact goes_served (issue_keeps h s .readStation)
  | subscribe h => exact goes_served (issue_keeps h s .subscribe)
  | unsubscribe h => exact goes_served (issue_keeps h s .unsubscribe)
  | revive h => exact goes_served (issue_keeps h s .revive)
  | hold h => exact goes_served (issue_keeps h s .hold)
  | release h => exact goes_served (issue_keeps h s .release)
  | pollStart h => exact goes_served (issue_keeps h s .pollStart)
  | pollRetime h => exact goes_served (issue_keeps h s .pollRetime)
  | pollStop h => exact goes_served (issue_keeps h s .pollStop)
  | readPoll h => exact goes_served (issue_keeps h s .readPoll)
  | popCompletion h => exact goes_served (issue_keeps h s .popCompletion)
  | setSettings h => exact goes_served (issue_keeps h s .setSettings)
  | readSettings h => exact goes_served (issue_keeps h s .readSettings)
  | lineReset h => exact goes_served (issue_keeps h s .lineReset)
  | readLine h => exact goes_served (issue_keeps h s .readLine)
  | clearStats h => exact goes_served (issue_keeps h s .clearStats)
  | badCommand h code => exact goes_served (commandWrite_keeps h s code)
  | noticeCodeRead h => exact goes_served (.of_running (running_noticeCodeRead s h))
  | noticeMaskWrite h value => exact goes_served (.of_running rfl)
  | portStatusRead h => exact goes_served (.of_running rfl)
  | portRegisterWrite h location value => exact goes_served (portRegisterWrite_keeps h s location value)
  | windowRead h offset => exact goes_served (.of_running rfl)
  | windowWrite h offset value => exact goes_served (.of_running rfl)
  | arbiterServe => exact goes_internal (arbiterServe_keeps s)
  | powerOnReset => exact goes_next (powerOnReset_keeps s)
  | hostPortResetAssert h => exact goes_next (.of_running (running_hostPortResetAssert s h))
  | hostPortResetRelease h => exact goes_next (.of_running (running_hostPortResetRelease s h))
  | xtabResetPart h => exact goes_releasePart (Keeps.foldl (fun t i => resetSlot_keeps t h i) _ s)
  | bpoolResetPart h => exact goes_releasePart (.of_running rfl)
  | plstResetPart h => exact goes_releasePart (.of_running (running_resetEntries s h))
  | stabResetPart h => exact goes_releasePart (.of_running (running_resetStations s h))
  | cqResetPart h => exact goes_releasePart (.of_running rfl)
  | nctlResetPart h => exact goes_releasePart (.of_running rfl)
  | portResetPart h => exact goes_internal (.of_running (running_portResetPart s h))
  | tick => exact goes_internal (.of_running (running_tick s))
  | replyTimerExpiry => exact goes_internal (replyTimerExpiry_keeps s)
  | leaseExpiry n => exact goes_internal (.of_running (running_leaseExpiry s n))
  | pollDue e => exact goes_internal (pollDue_keeps s e)
  | guardRunOut => exact goes_internal (guardRunOut_keeps s)
  | schedulerRun => exact goes_internal (schedulerRun_keeps hs)
  | openingBreakEnd => exact goes_lineOnly (openingBreakEnd_lineOnly s)
  | characterSent => exact goes_lineOnly (characterSent_lineOnly s)
  | echoCollision => exact goes_lineOnly (echoCollision_lineOnly s)
  | frameSent => exact goes_lineOnly (frameSent_lineOnly s)
  | cutBreakEnd => exact goes_lineOnly (cutBreakEnd_lineOnly s)
  | breakDetected => exact goes_lineOnly (breakDetected_lineOnly s)
  | breakEnd => exact goes_lineOnly (breakEnd_lineOnly s)
  | characterTaken value => exact goes_lineOnly (characterTaken_lineOnly s value)
  | framingError => exact goes_lineOnly (framingError_lineOnly s)
  | gapLimit => exact goes_lineOnly (gapLimit_lineOnly s)
  | stuckDetected => exact goes_lineOnly (stuckDetected_lineOnly s)
  | lineRecovered => exact goes_lineOnly (lineRecovered_lineOnly s)
  | halfBitSample => exact goes_lineOnly (halfBitSample_lineOnly s)
  | sentReport => exact goes_internal (sentReport_keeps s)
  | collisionReport => exact goes_internal (collisionReport_keeps s)
  | cutCompleteReport => exact goes_internal (cutCompleteReport_keeps s)
  | frameStartReport => exact goes_internal (frameStartReport_keeps s)
  | frameCompleteReport => exact goes_internal (frameCompleteReport_keeps s)
  | badFrameReport => exact goes_internal (badFrameReport_keeps s)
  | stuckReport => exact goes_internal (stuckReport_keeps s)
  | recoveryReport => exact goes_internal (recoveryReport_keeps s)
  | exchangeEndTaken => exact goes_internal (exchangeEndTaken_keeps s)
  | exchangeEndReport => exact goes_internal (.of_running (running_exchangeEndReport s))
  | stationFlush => exact goes_internal (stationFlush_keeps s)
  | instanceEnd => exact goes_internal (.of_running (running_instanceEnd s))
  | markToSpaceEdge => exact goes_next (.of_running (running_of_lineOnly (markToSpaceEdge_lineOnly s)))
  | spaceToMarkEdge => exact goes_next (.of_running (running_of_lineOnly (spaceToMarkEdge_lineOnly s)))
  | powerOnResetRelease => exact goes_next (.of_running (running_powerOnResetRelease s))

/-! ## Every step -/

section
variable {s t : State}

theorem serveWaiting_keeps {h : HostId} {c : Instr} (hs : EngineOk s) (ht : serveWaiting h c s = .next t) : Keeps s t := by
  obtain ⟨u, hu⟩ := FieldLine.exec_goesOn c (setWaiting h [] s)
  obtain rfl : setWaiting h (s.port h).waiting.tail u = t := by simpa [serveWaiting, hu] using ht
  have hengine : EngineOk (setWaiting h [] s) := hs
  have hserved : Keeps (setWaiting h [] s) u := exec_keeps hengine c u hu
  exact .after_same (t := setWaiting h [] s) rfl (hserved.then_same rfl)

theorem step_keeps (hs : EngineOk s) (ht : step s = .next t) : Keeps s t := by
  unfold step at ht
  split at ht
  · unfold idleStep at ht
    split at ht
    · exact exec_keeps hs _ t ht
    · split at ht
      · exact serveWaiting_keeps hs ht
      · obtain rfl := Host.Outcome.next.inj ht
        exact .of_running (running_clockPeriod s)
  · next c rest _ =>
    have htaken : EngineOk { s with pending := rest } := hs
    exact .after_same (t := { s with pending := rest }) rfl (exec_keeps htaken c t ht)

end

/-- Settles O10: every step keeps both invariants, and the settings that the retry limits come from. -/
theorem oneExchangeWithBoundedAttempts : Obligations.OneExchangeWithBoundedAttempts :=
  ⟨fun _ _ he ho ht => (step_keeps he ht).one ho, fun _ _ he ho hs ha ht => (step_keeps he ht).attempts hs ho ha⟩

end Sys2Proof.ExchangeTable
end

section
/-! The taking of an end by origin and state (R69, R70, R77), CANCEL (R72, R73), and the reads that change nothing (R78, R113, R114, R164). -/

namespace Sys2Proof.ExchangeTable

open Sys2Proof.Machine

/-! ## The table's commands where the port serves -/

section
variable {h : HostId} {s : State} (hs : portServes h s = true)
include hs

theorem exec_submit : exec (.submit h) s = .next (submit h s) := served_next hs
theorem exec_cancel : exec (.cancel h) s = .next (cancel h s) := served_next hs
theorem exec_readExchange : exec (.readExchange h) s = .next (readExchange h s) := served_next hs

end

/-! ## EXCHANGE_END_TAKEN (R69, R70, R77) -/

theorem exec_exchangeEndTaken {s : State} {e : ExchangeEnd} (hp : s.porst = false) (he : s.hand.exchangeEnd = some e) :
    exec .exchangeEndTaken s = .next (takeEnd e s) := by
  rw [show exec .exchangeEndTaken s = .next (exchangeEndTaken s) from internal_spec.1 hp, exchangeEndTaken, he]

/-- Settles O30: a HOST-origin exchange by its state, then an exchange of a poll. -/
theorem endIsTakenByOriginAndState : Obligations.EndIsTakenByOriginAndState := by
  intro s e hp he
  rw [exec_exchangeEndTaken hp he]
  refine ⟨fun hstate horigin => ⟨_, enterDone_spec e.slot _ (endTaken s), ?_⟩,
    fun hstate horigin => ⟨_, unlend_spec (.slot e.slot) (endTaken s), ?_⟩, fun p hline horigin => ?_⟩
  · rw [takeEnd_done hstate horigin]
    rfl
  · rw [takeEnd_orphan hstate horigin]
  · rw [takeEnd_instance hline horigin]
    rfl

/-! ## CANCEL (R72, R73) -/

section
variable {h : HostId} {i : SlotNo} {s : State}

theorem cancel_badParam (ha : 32 ≤ (arg h 0 s).toNat) : cancel h s = answer h .badParam s := by
  rw [cancel, slotOf_none ha]

theorem cancel_slot (ha : (arg h 0 s).toNat = i.val) : cancel h s = cancelSlot h i (settleEnd i s) := by
  rw [cancel, slotOf_some ha]

theorem settleEnd_none (hn : ∀ e, s.hand.exchangeEnd = some e → e.slot ≠ i) : settleEnd i s = s := by
  unfold settleEnd
  split
  · rfl
  · next e he => exact if_neg (hn e he)

theorem settleEnd_takes {e : ExchangeEnd} (he : s.hand.exchangeEnd = some e) (hi : e.slot = i) :
    settleEnd i s = takeEnd e s := by
  simp [settleEnd, he, hi]

theorem cancelSlot_notOwner (hn : (s.slot i).state = .free ∨ (s.slot i).owner ≠ h ∨ (s.slot i).origin ≠ .host
    ∨ (s.slot i).state = .orphan) : cancelSlot h i s = answer h .notOwner s := if_pos hn

/-- A host's own exchange that is neither FREE nor ORPHAN is answered by its state. -/
theorem cancelSlot_own (howner : (s.slot i).owner = h) (horigin : (s.slot i).origin = .host) :
    ((s.slot i).state = .queued →
      cancelSlot h i s = answer h .ok (enterDone i (endUngranted .cancelled (s.slot i)) s))
    ∧ ((s.slot i).state = .active →
      cancelSlot h i s = answer h .deferred (s.setSlot i { s.slot i with cancelRequested := true }))
    ∧ ((s.slot i).state = .done → cancelSlot h i s = answer h .tooLate s) := by
  refine ⟨fun hstate => ?_, fun hstate => ?_, fun hstate => ?_⟩ <;> simp [cancelSlot, howner, horigin, hstate]

end

/-- The state `t` has the ports, the reset inputs and the claim in service of `s`. -/
structure SamePorts (s t : State) : Prop where
  porst : t.porst = s.porst
  ports : t.ports = s.ports
  service : t.service = s.service

section
variable {s t : State}

theorem SamePorts.serves (hp : SamePorts s t) (h : HostId) : portServes h t = portServes h s := by
  have hport : t.port h = s.port h := congrArg (tget · h) hp.ports
  rw [portServes, portServes, portInService, portInService, hport, hp.porst, hp.service]

theorem SamePorts.arg (hp : SamePorts s t) (h : HostId) (k : Fin 24) : arg h k t = arg h k s := by
  simp only [Machine.arg, State.port, hp.ports]

/-- The taking of an end leaves the ports, and no end waits after it. -/
theorem takeEnd_leaves (e : ExchangeEnd) (s : State) : SamePorts s (takeEnd e s) ∧ (takeEnd e s).hand.exchangeEnd = none := by
  by_cases hline : onLine (s.slot e.slot)
  · cases horigin : (s.slot e.slot).origin with
    | poll p =>
      rw [takeEnd_instance hline horigin]
      exact ⟨⟨rfl, rfl, rfl⟩, rfl⟩
    | host =>
      rcases hline with hstate | hstate
      · rw [takeEnd_done hstate horigin]
        have hsame := StationRecords.enterDone_same e.slot (withEnd e (s.slot e.slot)) (endTaken s)
        exact ⟨⟨hsame.porst, hsame.ports, hsame.service⟩, congrArg HandOvers.exchangeEnd hsame.hand⟩
      · rw [takeEnd_orphan hstate horigin]
        exact ⟨⟨rfl, rfl, rfl⟩, rfl⟩
  · rw [takeEnd_offLine hline]
    exact ⟨⟨rfl, rfl, rfl⟩, rfl⟩

/-- An end of the slot named is taken first, and CANCEL then finds none (R73, log 7). -/
theorem cancel_takes {h : HostId} {i : SlotNo} {e : ExchangeEnd} (ha : (arg h 0 s).toNat = i.val)
    (he : s.hand.exchangeEnd = some e) (hi : e.slot = i) : cancel h s = cancel h (takeEnd e s) := by
  obtain ⟨hports, hnone⟩ := takeEnd_leaves e s
  rw [cancel_slot ha, settleEnd_takes he hi, cancel_slot (by rw [hports.arg, ha]), settleEnd_none]
  intro d hd
  rw [hnone] at hd
  cases hd

end

/-- Settles O29: an end of the slot that waits, then the slot's record. -/
theorem cancelAnswersByTheRecord : Obligations.CancelAnswersByTheRecord := by
  intro h s hs
  refine ⟨fun ha => ?_, fun i ha => ⟨fun e he hi u hu => ?_, fun hn => ?_⟩⟩
  · rw [exec_cancel hs, cancel_badParam ha]
  · rw [exec_exchangeEndTaken ((FieldLine.portServes_iff h s).1 hs).1 he] at hu
    obtain rfl := Host.Outcome.next.inj hu
    rw [exec_cancel hs, exec_cancel (((takeEnd_leaves e s).1.serves h).trans hs), cancel_takes ha he hi]
  · rw [exec_cancel hs, cancel_slot ha, settleEnd_none hn]
    refine ⟨fun hno => by rw [cancelSlot_notOwner hno], fun howner horigin => ?_⟩
    obtain ⟨hqueued, hactive, hdone⟩ := cancelSlot_own howner horigin
    exact ⟨fun hstate => ⟨_, enterDone_spec i _ s, by rw [hqueued hstate]; rfl⟩,
      fun hstate => by rw [hactive hstate], fun hstate => by rw [hdone hstate]⟩

/-! ## READ_EXCHANGE and the reads of the shared records (R78, R113, R114, R164) -/

section
variable {h : HostId} {i : SlotNo} {s : State}

theorem readExchange_badParam (ha : 32 ≤ (arg h 0 s).toNat) : readExchange h s = answer h .badParam s := by
  rw [readExchange, slotOf_none ha]

theorem readExchange_slot (ha : (arg h 0 s).toNat = i.val) : readExchange h s =
    if (s.slot i).state = .free ∨ (s.slot i).owner ≠ h then answer h .notOwner s
    else answerWith h .ok 0 (exchangeCopy i (s.slot i)) s := by
  rw [readExchange, slotOf_some ha]

end

/-- Settles O17: each read's copy, and READ_EXCHANGE by the slot that its argument names. -/
theorem readsAndClearStats : Obligations.ReadsAndClearStats := by
  intro h s hs
  rw [exec_readExchange hs]
  refine ⟨served_next hs, served_next hs, served_next hs, fun i ha => ?_, fun ha => by rw [readExchange_badParam ha]⟩
  rw [readExchange_slot ha]
  exact ⟨fun hstate howner => by rw [if_neg (by simp [hstate, howner])], fun hno => by rw [if_pos hno]⟩

end Sys2Proof.ExchangeTable
end

section
/-! SUBMIT (R61 to R64): its checks in their order, and the record that it places with its buffers lent. -/

namespace Sys2Proof.ExchangeTable

open Sys2Proof.Machine

/-! ## The arguments (R42, R62, R168) -/

theorem classOf_none_iff (b : Byte) : classOf b = none ↔ ¬ b.toNat ≤ 2 := by
  simp only [classOf, ← BitVec.toNat_inj]
  grind

theorem classOf_classByte (c : ExClass) : classOf (classByte c) = some c := by cases c <;> rfl

theorem addressOf_some {b : Byte} {a : StationAddr} (h : b.toNat = a.val) : addressOf b = some a := by
  have ha := a.isLt
  rw [addressOf, dif_pos (by omega)]
  exact congrArg some (Fin.ext h)

theorem bufferField_none : bufferField 0xFF = some none := rfl

theorem bufferField_some {f : Byte} {b : BufNo} (h : f.toNat = b.val) : bufferField f = some (some b) := by
  have hb := b.isLt
  rw [bufferField, if_neg (StationRecords.ne_of_toNat_lt (by omega)), bufferOf_some h]
  rfl

/-- A buffer field stands for none, for a buffer, or for a number that names no buffer (R42). -/
theorem bufferField_cases (f : Byte) : f = 0xFF ∨ (∃ b : BufNo, f.toNat = b.val) ∨
    (f ≠ 0xFF ∧ (∀ b : BufNo, f.toNat ≠ b.val) ∧ bufferField f = none) := by
  by_cases hnone : f = 0xFF
  · exact .inl hnone
  · by_cases hb : f.toNat < 96
    · exact .inr (.inl ⟨⟨f.toNat, hb⟩, rfl⟩)
    · refine .inr (.inr ⟨hnone, fun b hfb => hb (hfb ▸ b.isLt), ?_⟩)
      rw [bufferField, if_neg hnone, BufferPool.bufferOf_none (by omega)]
      rfl

theorem bufferField_getD {f : Byte} {b : Option BufNo} (h : namesBuffer f b) : (bufferField f).getD none = b := by
  cases b with
  | none => rw [show f = 0xFF from h, bufferField_none]; rfl
  | some k => rw [bufferField_some h]; rfl

section
variable {h : HostId} {s : State}

theorem fieldHeld_iff (f : Byte) : fieldHeld h (bufferField f) s = true ↔ fieldOwned h f s := by
  rcases bufferField_cases f with rfl | ⟨b, hb⟩ | ⟨hnone, hnot, hfield⟩
  · exact iff_of_true rfl (.inl rfl)
  · have hne : f ≠ 0xFF := StationRecords.ne_of_toNat_lt (by omega)
    rw [bufferField_some hb, fieldHeld, decide_eq_true_eq, fieldOwned, or_iff_right hne]
    refine ⟨fun hheld => ⟨b, hb, hheld⟩, fun ⟨c, hc, hheld⟩ => ?_⟩
    rwa [Fin.ext (hb.symm.trans hc)]
  · rw [hfield]
    exact iff_of_false (by simp [fieldHeld]) fun howned => howned.elim hnone fun ⟨b, hb, _⟩ => hnot b hb

theorem fieldUnlent_iff (f : Byte) : fieldUnlent (bufferField f) s = true ↔ fieldFree f s := by
  rcases bufferField_cases f with rfl | ⟨b, hb⟩ | ⟨hnone, hnot, hfield⟩
  · refine iff_of_true rfl fun b hb => absurd b.isLt ?_
    rw [← hb]
    decide
  · rw [bufferField_some hb, fieldUnlent, Option.isNone_iff_eq_none]
    refine ⟨fun hfree c hc => ?_, fun hfree => hfree b hb⟩
    rwa [Fin.ext (hc.symm.trans hb)]
  · rw [hfield]
    exact iff_of_true rfl fun b hb => absurd hb (hnot b)

theorem addressFailed_iff (b : Byte) : addressFailed ((addressOf b).getD 0) s = true ↔
    ¬ ∀ n : StationNo, b.toNat = n.val + 1 → (s.station n).state ≠ .failed := by
  by_cases hb : 1 ≤ b.toNat ∧ b.toNat ≤ 31
  · obtain ⟨n, hn⟩ : ∃ n : StationNo, b.toNat = n.val + 1 := ⟨⟨b.toNat - 1, by omega⟩, by simp; omega⟩
    rw [addressOf_some (a := n.address) hn, Option.getD_some, addressFailed, record_station rfl]
    simp [hn, ← Fin.ext_iff]
  · have hrecord : ((addressOf b).getD 0).record = none := by
      refine record_broadcast ?_
      by_cases hzero : b.toNat < 32
      · rw [addressOf_some (a := 0) (by simp; omega)]; rfl
      · rw [addressOf, dif_neg hzero]; rfl
    have hnone (n : StationNo) : b.toNat ≠ n.val + 1 := by
      have := n.isLt
      omega
    simp [addressFailed, hrecord, hnone]

theorem freeSlot_none_iff : freeSlot s = none ↔ ¬ ∃ i, (s.slot i).state = .free := by
  rw [freeSlot, tfind_eq_none]
  simp [State.slot]

/-! ## The checks in their order (R63) -/

/-- The first check of a list, made by a test for its failure, and those after it. -/
theorem firstFailure_test {p q : Prop} [Decidable q] {c : ResultCode} {cs : List (Prop × ResultCode)}
    {r rest : Option ResultCode} (hq : q ↔ ¬ p) (hf : firstFailure ((p, c) :: cs) r)
    (hrest : firstFailure cs r → rest = r) : (if q then some c else rest) = r := by
  obtain ⟨hpass, hfail⟩ := hf
  split_ifs with h
  · exact (hfail (hq.1 h)).symm
  · exact hrest (hpass (not_not.1 (mt hq.2 h)))

/-- Two checks with one result are one check. -/
theorem firstFailure_both {p q : Prop} {c : ResultCode} {cs : List (Prop × ResultCode)} {r : Option ResultCode}
    (hf : firstFailure ((p, c) :: (q, c) :: cs) r) : firstFailure ((p ∧ q, c) :: cs) r := by
  obtain ⟨hpass, hfail⟩ := hf
  refine ⟨fun hpq => (hpass hpq.1).1 hpq.2, fun hpq => ?_⟩
  by_cases hp : p
  · exact (hpass hp).2 fun hq => hpq ⟨hp, hq⟩
  · exact hfail hp

theorem submitRefusal_of_checks {r : Option ResultCode} (hf : firstFailure (submitChecks h s) r) :
    submitRefusal h s = r := by
  refine firstFailure_test ?_ hf fun hf => firstFailure_test ?_ hf fun hf => firstFailure_test ?_ hf fun hf =>
    firstFailure_test ?_ (firstFailure_both hf) fun hf => firstFailure_test ?_ (firstFailure_both hf) fun hf =>
    firstFailure_test (addressFailed_iff _) hf fun hf => firstFailure_test ?_ hf fun hf => firstFailure_test ?_ hf fun hf => hf.symm
  · rw [classOf_none_iff]
    simp only [not_and_or, not_or, not_le, ne_eq]
  · have hzero : 0 < (arg h 4 s).toNat ↔ arg h 4 s ≠ 0 := by
      rw [Nat.pos_iff_ne_zero, ne_eq, ne_eq, ← BitVec.toNat_inj]
      rfl
    rw [hzero, not_or, not_not]
  · rw [Classical.not_imp]
  · simp only [Bool.not_eq_true', ← Bool.not_eq_true, Bool.and_eq_true, fieldHeld_iff]
  · simp only [Bool.not_eq_true', ← Bool.not_eq_true, Bool.and_eq_true, fieldUnlent_iff]
  · exact not_lt.symm
  · rw [Option.isNone_iff_eq_none, freeSlot_none_iff]

/-! ## SUBMIT (R61, R64) -/

theorem submit_refused {r : ResultCode} (hr : submitRefusal h s = some r) : submit h s = answer h r s := by
  rw [submit, hr]

theorem submit_accepted {i : SlotNo} (hr : submitRefusal h s = none) (hi : lowestFree i s) : submit h s =
    answerWith h .ok 10 [natByte i.val, hiByte s.submission, loByte s.submission]
      (lend (.slot i) (submitRecord h s).requestBuffer (submitRecord h s).replyBuffer (place i (submitRecord h s) s)) := by
  rw [submit, hr, (freeSlot_spec i s).2 hi]

end

theorem occupancy_eq (h : HostId) (s : State) : occupancy h s =
    ((List.finRange 32).filter fun i => decide ((s.slot i).state ≠ .free ∧ (s.slot i).owner = h)).length := by
  simp only [occupancy, tcount, List.countP_eq_length_filter, Bool.decide_and]
  rfl

/-- Settles O28: the count of the quota, then SUBMIT refused and accepted. -/
theorem submitChecksThenFillsTheLowestSlot : Obligations.SubmitChecksThenFillsTheLowestSlot := by
  refine ⟨occupancy_eq, fun h r s hs hf => ?_, fun h i a c q p s hs hf hi ha hc hq hp => ?_⟩
  · rw [exec_submit hs, submit_refused (submitRefusal_of_checks hf)]
  · refine ⟨_, _, place_spec i _ s, lend_spec (.slot i) q p _, ?_⟩
    rw [exec_submit hs, submit_accepted (submitRefusal_of_checks hf) hi, submitRecord, hc, classOf_classByte,
      addressOf_some ha, bufferField_getD hq, bufferField_getD hp]
    rfl

end Sys2Proof.ExchangeTable
end

section
/-! A port reset at the Exchange Table (R67, R79): what each slot's record becomes, and the buffers that its QUEUED exchanges return. -/

namespace Sys2Proof.ExchangeTable

open Sys2Proof.Machine

/-! ## One slot -/

/-- What host `h`'s release makes of a slot's record (R79). -/
def resetRecord (h : HostId) (x : Exchange) : Exchange :=
  if x.owner ≠ h then x
  else match x.state with
    | .queued => freeExchange
    | .done => freeExchange
    | .active => { x with state := .orphan }
    | .orphan => x
    | .free => x

/-- An exchange of host `h` whose buffers are lent to its slot still: QUEUED, of HOST origin (R67, R79). -/
def LentOut (h : HostId) (x : Exchange) : Prop := x.owner = h ∧ x.state = .queued ∧ x.origin = .host

section
variable {h : HostId} {i : SlotNo} {s : State}

theorem resetSlot_lentOut (hx : LentOut h (s.slot i)) :
    resetSlot h s i = (unlend (.slot i) s).setSlot i (resetRecord h (s.slot i)) := by
  obtain ⟨howner, hstate, horigin⟩ := hx
  simp [resetSlot, resetRecord, howner, hstate, horigin]

theorem resetSlot_others (hx : ¬ LentOut h (s.slot i)) : resetSlot h s i = s.setSlot i (resetRecord h (s.slot i)) := by
  by_cases howner : (s.slot i).owner = h
  · cases hstate : (s.slot i).state with
    | queued =>
      cases horigin : (s.slot i).origin with
      | host => exact absurd ⟨howner, hstate, horigin⟩ hx
      | poll p => simp [resetSlot, resetRecord, howner, hstate, horigin]
    | active => simp [resetSlot, resetRecord, howner, hstate]
    | done => simp [resetSlot, resetRecord, howner, hstate]
    | free => simp [resetSlot, resetRecord, howner, hstate]
    | orphan => simp [resetSlot, resetRecord, howner, hstate]
  · simp [resetSlot, resetRecord, howner]

end

/-! ## The slots of a list -/

/-- A buffer is lent to an exchange of host `h`, QUEUED and of HOST origin, in a slot of a list. -/
def FreedIn (h : HostId) (l : List SlotNo) (s : State) (b : BufNo) : Prop :=
  ∃ x i, s.attachment b = some x ∧ x.attacher = .slot i ∧ i ∈ l ∧ LentOut h (s.slot i)

/-- The state `t` is `s` after the Exchange Table's part of host `h`'s release at the slots of a list (R79). -/
structure SlotsReset (h : HostId) (l : List SlotNo) (s t : State) : Prop where
  slots : ∀ i, t.slot i = if i ∈ l then resetRecord h (s.slot i) else s.slot i
  freed : ∀ b, FreedIn h l s b → t.attachment b = none ∧ t.holder b = if s.holder b = .orphaned then .free else s.holder b
  kept : ∀ b, ¬ FreedIn h l s b → t.attachment b = s.attachment b ∧ t.holder b = s.holder b
  joined : ∃ back, t.freeList = s.freeList ++ back ∧ ∀ b, b ∈ back ↔ FreedIn h l s b ∧ s.holder b = .orphaned
  frame : { t with slots := s.slots, attached := s.attached, holders := s.holders, freeList := s.freeList } = s

section
variable {h : HostId} {s : State}

theorem SlotsReset.nil : SlotsReset h [] s s where
  slots i := by simp
  freed b hb := by simp [FreedIn] at hb
  kept _ _ := ⟨rfl, rfl⟩
  joined := ⟨[], by simp, fun b => by simp [FreedIn]⟩
  frame := rfl

theorem freedIn_single {i : SlotNo} (b : BufNo) : FreedIn h [i] s b ↔
    (∃ x, s.attachment b = some x ∧ x.attacher = .slot i) ∧ LentOut h (s.slot i) := by
  simp only [FreedIn, List.mem_singleton]
  grind

theorem resetSlot_reset (i : SlotNo) : SlotsReset h [i] s (resetSlot h s i) := by
  have hslot (u : State) (hu : ∀ j, u.slot j = s.slot j) (j : SlotNo) : (u.setSlot i (resetRecord h (s.slot i))).slot j =
      if j ∈ [i] then resetRecord h (s.slot j) else s.slot j := by
    simp only [State.setSlot_slot, List.mem_singleton, hu]
    grind
  by_cases hx : LentOut h (s.slot i)
  · obtain ⟨hframe, hfreed, hkept, back, hlist, -, hback⟩ := unlend_spec (.slot i) s
    rw [resetSlot_lentOut hx]
    refine ⟨hslot _ fun _ => rfl, fun b hb => hfreed b ((freedIn_single b).1 hb).1, fun b hb => hkept b fun x hs hi => ?_,
      ⟨back, hlist, fun b => ?_⟩, rfl⟩
    · exact hb ((freedIn_single b).2 ⟨⟨x, hs, hi⟩, hx⟩)
    · rw [hback, freedIn_single]
      tauto
  · have hnone (b : BufNo) : ¬ FreedIn h [i] s b := fun hb => hx ((freedIn_single b).1 hb).2
    rw [resetSlot_others hx]
    exact ⟨hslot s fun _ => rfl, fun b hb => absurd hb (hnone b), fun _ _ => ⟨rfl, rfl⟩,
      ⟨[], (List.append_nil _).symm, fun b => by simp [hnone b]⟩, rfl⟩

variable {t u : State} {l m : List SlotNo}

/-- The slots of one list and then those of another, none of them twice. -/
theorem SlotsReset.append (hl : SlotsReset h l s t) (hm : SlotsReset h m t u) (hdisjoint : ∀ i ∈ m, i ∉ l) :
    SlotsReset h (l ++ m) s u := by
  have heither (b : BufNo) : FreedIn h (l ++ m) s b ↔ FreedIn h l s b ∨ FreedIn h m s b := by
    simp only [FreedIn, List.mem_append]
    grind
  have hfirst {b : BufNo} (hb : FreedIn h l s b) : ¬ FreedIn h m t b := by
    rintro ⟨x, -, hx, -⟩
    simp [(hl.freed b hb).1] at hx
  have hsecond {b : BufNo} (hb : ¬ FreedIn h l s b) : FreedIn h m t b ↔ FreedIn h m s b := by
    have hsame (i : SlotNo) (hi : i ∈ m) : t.slot i = s.slot i := by rw [hl.slots, if_neg (hdisjoint i hi)]
    simp only [FreedIn, (hl.kept b hb).1]
    grind
  obtain ⟨back, hlist, hback⟩ := hl.joined
  obtain ⟨back', hlist', hback'⟩ := hm.joined
  refine ⟨fun i => ?_, fun b hb => ?_, fun b hb => ?_, ⟨back ++ back', ?_, fun b => ?_⟩, ?_⟩
  · rw [hm.slots, hl.slots]
    grind
  · by_cases hbl : FreedIn h l s b
    · rw [(hm.kept b (hfirst hbl)).1, (hm.kept b (hfirst hbl)).2]
      exact hl.freed b hbl
    · have hbm := (hsecond hbl).2 (((heither b).1 hb).resolve_left hbl)
      rw [← (hl.kept b hbl).2]
      exact hm.freed b hbm
  · obtain ⟨hbl, hbm⟩ := not_or.1 (mt (heither b).2 hb)
    obtain ⟨hattachment, hholder⟩ := hm.kept b (mt (hsecond hbl).1 hbm)
    rw [hattachment, hholder]
    exact hl.kept b hbl
  · rw [hlist', hlist, List.append_assoc]
  · rw [List.mem_append, hback, hback', heither]
    by_cases hbl : FreedIn h l s b
    · simp [hbl, hfirst hbl]
    · rw [hsecond hbl, (hl.kept b hbl).2]
      simp [hbl]
  · exact (congrArg (fun v : State => { v with
      slots := s.slots, attached := s.attached, holders := s.holders, freeList := s.freeList }) hm.frame).trans hl.frame

theorem foldl_resetSlot (h : HostId) : ∀ (l : List SlotNo) (s : State), l.Nodup →
    SlotsReset h l s (l.foldl (resetSlot h) s)
  | [], _, _ => .nil
  | i :: l, s, hl => by
    obtain ⟨hi, hl⟩ := List.nodup_cons.1 hl
    exact (resetSlot_reset i).append (foldl_resetSlot h l _ hl) fun j hj => by
      simpa using ne_of_mem_of_not_mem hj hi

end

/-! ## XTAB_RESET_PART (R79) -/

theorem exec_xtabResetPart {h : HostId} {s : State} (hp : s.porst = false) (hr : (s.port h).phase = .releasing .xtab) :
    exec (.xtabResetPart h) s = .next (setPhase h (.releasing .bpool) (resetSlots h s)) := by
  rw [show exec (.xtabResetPart h) s = .next (xtabResetPart h s) from internal_spec.1 hp, xtabResetPart, releasePart,
    if_pos hr]

/-- Settles O56: the release at every slot, then the part that comes next. -/
theorem releaseAtTheExchangeTable : Obligations.ReleaseAtTheExchangeTable := by
  intro h s hp hr
  have hreset : SlotsReset h (List.finRange 32) s (resetSlots h s) := foldl_resetSlot h _ s (List.nodup_finRange 32)
  rw [exec_xtabResetPart hp hr]
  generalize resetSlots h s = t at hreset ⊢
  have hport (k : HostId) : t.port k = s.port k := (congrArg (fun u : State => u.port k) hreset.frame :)
  have hfreed (b : BufNo) : (∃ x i, s.attachment b = some x ∧ x.attacher = .slot i ∧ (s.slot i).owner = h
      ∧ (s.slot i).state = .queued ∧ (s.slot i).origin = .host) ↔ FreedIn h (List.finRange 32) s b := by
    simp [FreedIn, LentOut]
  refine ⟨_, rfl, ?_, fun k hk => ?_, fun i => ?_, ⟨fun b hb => hreset.freed b ((hfreed b).1 hb),
    fun b hb => hreset.kept b (mt (hfreed b).2 hb), ?_⟩, ?_⟩
  · simp [setPhase, hport]
  · simp [setPhase, hport, Ne.symm hk]
  · exact (hreset.slots i).trans (if_pos (List.mem_finRange i))
  · obtain ⟨back, hlist, hback⟩ := hreset.joined
    exact ⟨back, hlist, fun b => (hback b).trans (and_congr_left' (hfreed b).symm)⟩
  · exact (congrArg (fun u : State => { u with ports := s.ports }) hreset.frame)

end Sys2Proof.ExchangeTable
end

section
/-! The port's locations (R148, R153, R154, R168, R170, R172, R174): the bits of a byte, the reads and writes, the command of each code, and the notices' latches (R151, R152, R156). -/

namespace Sys2Proof.PortLocations

open Sys2Proof.Machine

/-! ## The bits of a byte -/

theorem flagByte_bit (b : Bool) (n : Nat) : (flagByte b).getLsbD n = (decide (n = 0) && b) := by
  cases b <;> simp [flagByte, BitVec.getLsbD_one]

/-- Flags as the bits of a byte: bit `n` is the flag of that place. -/
theorem bitsByte_bit : ∀ (flags : List Bool) (n : Nat), flags.length ≤ 8 → (bitsByte flags).getLsbD n = (flags[n]?).getD false
  | [], n, _ => by simp [bitsByte]
  | b :: flags, 0, _ => by
    simp only [bitsByte, BitVec.getLsbD_or, BitVec.getLsbD_shiftLeft, flagByte_bit]
    simp
  | b :: flags, n + 1, hl => by
    rw [List.length_cons] at hl
    simp only [bitsByte, BitVec.getLsbD_or, BitVec.getLsbD_shiftLeft, flagByte_bit, List.getElem?_cons_succ,
      Nat.add_sub_cancel, bitsByte_bit flags n (by omega)]
    by_cases hn : n + 1 < 8
    · simp [hn]
    · rw [List.getElem?_eq_none (by omega)]
      simp [hn]

theorem noticeBit_bit {c : Nat} (hc : c < 8) (n : Nat) : (noticeBit c).getLsbD n = decide (n = c) := by
  rw [noticeBit, BitVec.getLsbD_shiftLeft, show (1 : Byte) = 1#8 from rfl, BitVec.getLsbD_one]
  grind

theorem noticeCode_lt (source : NoticeSource) : noticeCode source < 8 := by cases source <;> decide

/-- A source is active when it is pending and not masked (R151). -/
theorem activeBits_bit (c : NoticeCtl) (n : Nat) :
    (activeBits c).getLsbD n = (c.pending.getLsbD n && !c.mask.getLsbD n) := by
  rw [activeBits, BitVec.getLsbD_and, BitVec.getLsbD_not]
  by_cases hn : n < 8
  · simp [hn]
  · simp [BitVec.getLsbD_of_ge c.pending n (by omega)]

/-- A notice sets the latch of its source and no other (R152). -/
theorem latched_bit (c : NoticeCtl) (source : NoticeSource) (n : Nat) :
    (c.latched source).pending.getLsbD n = (decide (n = noticeCode source) || c.pending.getLsbD n) := by
  rw [NoticeCtl.latched, BitVec.getLsbD_or, noticeBit_bit (noticeCode_lt source), Bool.or_comm]

/-! ## Notices (R151, R154, R156) -/

section
variable {h : HostId} {s : State}

theorem noticeOutput_iff : noticeOutput h s = true ↔
    ∃ n, (s.notice h).pending.getLsbD n = true ∧ (s.notice h).mask.getLsbD n = false := by
  have hzero : activeBits (s.notice h) = 0 ↔ ∀ n, (activeBits (s.notice h)).getLsbD n = false :=
    ⟨fun ha n => by simp [ha], fun ha => BitVec.eq_of_getLsbD_eq fun n _ => by simp [ha n]⟩
  rw [noticeOutput, decide_eq_true_eq, ne_eq, hzero]
  simp [activeBits_bit]

theorem highestActive_lowest {c : NoticeCtl} {n : Nat} (hn : n < 8) (ha : (activeBits c).getLsbD n = true)
    (hlow : ∀ m, m < n → (activeBits c).getLsbD m = false) : highestActive c = some n := by
  rw [highestActive, List.find?_range_eq_some]
  exact ⟨ha, List.mem_range.2 hn, fun m hm => by simp [hlow m hm]⟩

theorem highestActive_none {c : NoticeCtl} (ha : activeBits c = 0) : highestActive c = none := by
  simp [highestActive, ha]

theorem noticeCodeRead_active {n : Nat} (ha : highestActive (s.notice h) = some n) : noticeCodeRead h s =
    (s.setNotice h ⟨(s.notice h).pending &&& ~~~((1 : Byte) <<< n), (s.notice h).mask⟩).setPort h
      { s.port h with data := BitVec.ofNat 8 n } := by
  rw [noticeCodeRead, ha]
  rfl

theorem noticeCodeRead_none (ha : highestActive (s.notice h) = none) :
    noticeCodeRead h s = s.setPort h { s.port h with data := 0xFF } := by
  rw [noticeCodeRead, ha]
  rfl

/-! ## The port status byte (R174) -/

theorem portStatusRead_eq : portStatusRead h s =
    s.setPort h { s.port h with data := statusByte h s, windowRefused := false } := by
  simp [portStatusRead, drive]

theorem statusByte_bit (n : Nat) : (statusByte h s).getLsbD n =
    (([(s.port h).windowRefused, noticeOutput h s, backlogPresent h s] : List Bool)[n]?).getD false :=
  bitsByte_bit _ n (by simp)

theorem backlogPresent_iff : backlogPresent h s = true ↔
    ∃ i, (s.slot i).state = .done ∧ (s.slot i).origin = .host ∧ (s.slot i).owner = h := by
  rw [backlogPresent, Option.isSome_iff_ne_none, ne_eq, tfind_eq_none]
  simp only [not_forall, Bool.not_eq_false, inBacklog, Bool.and_eq_true, decide_eq_true_eq]
  exact exists_congr fun i => by rw [and_assoc, and_comm (a := _ = h)]; rfl

end

/-! ## The writes (R168) -/

section
variable {h : HostId} {s : State} (v : Byte)

theorem toNat_params (k : Fin 24) : (BitVec.ofNat 7 (0x48 + k.val)).toNat = 0x48 + k.val := by
  have hk := k.isLt
  rw [BitVec.toNat_ofNat]
  omega

theorem paramOffset_some (k : Fin 24) : paramOffset (BitVec.ofNat 7 (0x48 + k.val)) = some k := by
  have hk := k.isLt
  simp only [paramOffset, toNat_params]
  rw [dif_pos (by omega)]
  simp

/-- What a write stores in the parameter area, at an offset of that area or at none (R168). -/
def storeParam (h : HostId) (v : Byte) (s : State) : Option (Fin 24) → State
  | some k => s.setPort h { s.port h with params := tput (s.port h).params k v }
  | none => s

/-- A location outside the window that is not the select, the command or the mask. -/
theorem locationWrite_above {l : BitVec 7} (hl : 64 ≤ l.toNat) (hselect : l ≠ 0x40) (hcommand : l ≠ 0x41) (hmask : l ≠ 0x44) :
    locationWrite h l v s = storeParam h v s (paramOffset l) := by
  rw [locationWrite, dif_neg (by omega), if_neg hselect, if_neg hcommand, if_neg hmask]
  cases paramOffset l with
  | some k => rfl
  | none => rfl

theorem locationWrite_params (k : Fin 24) : locationWrite h (BitVec.ofNat 7 (0x48 + k.val)) v s =
    s.setPort h { s.port h with params := tput (s.port h).params k v } := by
  have hne (l : BitVec 7) (hl : l.toNat < 0x48) : BitVec.ofNat 7 (0x48 + k.val) ≠ l := by
    rintro rfl
    rw [toNat_params] at hl
    omega
  rw [locationWrite_above v (by rw [toNat_params]; omega) (hne _ (by decide)) (hne _ (by decide)) (hne _ (by decide)),
    paramOffset_some]
  rfl

theorem locationWrite_ignored {l : BitVec 7} (hl : l = 0x42 ∨ l = 0x43 ∨ l = 0x45 ∨ l = 0x46 ∨ l = 0x47 ∨ 0x60 ≤ l.toNat) :
    locationWrite h l v s = s := by
  obtain ⟨hlow, hselect, hcommand, hmask, hnone⟩ :
      64 ≤ l.toNat ∧ l ≠ 0x40 ∧ l ≠ 0x41 ∧ l ≠ 0x44 ∧ ¬ (0x48 ≤ l.toNat ∧ l.toNat < 0x60) := by
    rcases hl with rfl | rfl | rfl | rfl | rfl | hl
    iterate 5 decide
    refine ⟨by omega, ?_, ?_, ?_, by omega⟩ <;> rintro rfl <;> exact absurd hl (by decide)
  rw [locationWrite_above v hlow hselect hcommand hmask, paramOffset, dif_neg hnone]
  rfl

end

/-! ## The reads that change nothing (R148, R153, R168) -/

section
variable {h : HostId} {s : State}

/-- From offset 0x48 on a location is a byte of the parameter area or nothing. -/
theorem readLocation_of_le {l : BitVec 7} (hl : 0x48 ≤ l.toNat) : readLocation h l s
    = if hp : l.toNat - 0x48 < 24 then some (arg h ⟨l.toNat - 0x48, hp⟩ s) else some 0 := by
  simp only [readLocation]
  rw [if_neg (by omega), if_neg (by omega), if_neg (by omega), if_neg (by omega), if_neg (by omega), if_neg (by omega),
    if_neg (by omega), if_neg (by omega), if_neg (by omega)]
  rfl

theorem readLocation_params (k : Fin 24) : readLocation h (BitVec.ofNat 7 (0x48 + k.val)) s = some (arg h k s) := by
  rw [readLocation_of_le (by rw [toNat_params]; omega), dif_pos (by rw [toNat_params]; omega)]
  exact congrArg (fun i => some (arg h i s)) (Fin.ext (by simp only [toNat_params]; omega))

theorem readLocation_above {l : BitVec 7} (hl : 0x60 ≤ l.toNat) : readLocation h l s = some 0 := by
  rw [readLocation_of_le (by omega), dif_neg (by omega)]

end

/-! ## The command of a code (R170, R172) -/

/-- The codes of R172. -/
def codes : List Byte := [0x10, 0x11, 0x20, 0x21, 0x22, 0x30, 0x31, 0x32, 0x33, 0x38, 0x39, 0x40, 0x41, 0x42, 0x43, 0x50,
  0x60, 0x61, 0x70, 0x71, 0x72]

theorem commandCodes_codes (h : HostId) : (commandCodes h).map Prod.fst = codes := rfl

theorem commandOfCode_none : ∀ code : Byte, code ∉ codes → commandOfCode code = none := by decide

/-- A code of the table names the command that its row issues. -/
theorem commandCodes_issue (h : HostId) (s : State) : ∀ p ∈ commandCodes h, ∃ c, commandOfCode p.1 = some c
    ∧ exec p.2 s = served p.2 h s (issue h c) := by
  simp only [commandCodes, List.forall_mem_cons]
  exact ⟨⟨.bufAlloc, rfl, rfl⟩, ⟨.bufFree, rfl, rfl⟩, ⟨.submit, rfl, rfl⟩, ⟨.cancel, rfl, rfl⟩, ⟨.readExchange, rfl, rfl⟩,
    ⟨.readStation, rfl, rfl⟩, ⟨.subscribe, rfl, rfl⟩, ⟨.unsubscribe, rfl, rfl⟩, ⟨.revive, rfl, rfl⟩, ⟨.hold, rfl, rfl⟩,
    ⟨.release, rfl, rfl⟩, ⟨.pollStart, rfl, rfl⟩, ⟨.pollRetime, rfl, rfl⟩, ⟨.pollStop, rfl, rfl⟩, ⟨.readPoll, rfl, rfl⟩,
    ⟨.popCompletion, rfl, rfl⟩, ⟨.setSettings, rfl, rfl⟩, ⟨.readSettings, rfl, rfl⟩, ⟨.lineReset, rfl, rfl⟩,
    ⟨.readLine, rfl, rfl⟩, ⟨.clearStats, rfl, rfl⟩, fun _ hp => by cases hp⟩

section
variable {h : HostId} {s : State} {code : Byte}

theorem commandWrite_known (hs : portServes h s = true) {row : Instr} (hrow : (code, row) ∈ commandCodes h) :
    .next (commandWrite h code s) = exec row s := by
  obtain ⟨c, hc, hexec⟩ := commandCodes_issue h s _ hrow
  rw [hexec, served_next hs, commandWrite, hc]

theorem commandWrite_unknown (hrow : ∀ row, (code, row) ∉ commandCodes h) :
    commandWrite h code s = s.setPort h { s.port h with result := .badCommand } := by
  have hcode : code ∉ codes := by
    rw [← commandCodes_codes h, List.mem_map]
    rintro ⟨⟨code, row⟩, hmem, rfl⟩
    exact hrow row hmem
  rw [commandWrite, commandOfCode_none code hcode]
  rfl

end

/-! ## The port's locations -/

section
variable {h : HostId} {s : State} (hs : portServes h s = true)
include hs

theorem exec_noticeCodeRead : exec (.noticeCodeRead h) s = .next (noticeCodeRead h s) := served_next hs
theorem exec_portStatusRead : exec (.portStatusRead h) s = .next (portStatusRead h s) := served_next hs
theorem exec_badCommand (code : Byte) : exec (.badCommand h code) s = .next (commandWrite h code s) := served_next hs

theorem exec_portRegisterWrite (l : BitVec 7) (v : Byte) :
    exec (.portRegisterWrite h l v) s = .next (locationWrite h l v s) := served_next hs

end

/-- Settles O16: the reads with their clears, the writes, the reads that change nothing, and the notices' latches. -/
theorem portLocationsReadAndWrite : Obligations.PortLocationsReadAndWrite := by
  refine ⟨fun h s hs => ?_, fun h v s hs => ?_, fun h s => ?_, fun h source s => ?_, fun c source => ?_⟩
  · rw [exec_noticeCodeRead hs, exec_portStatusRead hs, portStatusRead_eq]
    refine ⟨fun n hn ha hlow => ?_, fun ha => ?_, rfl, statusByte_bit 0, statusByte_bit 1, ?_, fun n hn => ?_⟩
    · rw [noticeCodeRead_active (highestActive_lowest hn ha hlow)]
    · rw [noticeCodeRead_none (highestActive_none ha)]
    · rw [statusByte_bit 2]
      exact backlogPresent_iff
    · rw [statusByte_bit, List.getElem?_eq_none hn]
      rfl
  · simp only [exec_portRegisterWrite hs, exec_badCommand hs]
    refine ⟨rfl, fun k => by rw [locationWrite_params], fun l hl => by rw [locationWrite_ignored v hl],
      fun code row hrow => ?_, fun code hno => ?_⟩
    · exact ⟨commandWrite_known hs hrow, commandWrite_known hs hrow⟩
    · exact ⟨congrArg _ (commandWrite_unknown hno), congrArg _ (commandWrite_unknown hno)⟩
  · exact ⟨rfl, rfl, rfl, rfl, rfl, rfl, readLocation_params, fun l hl => readLocation_above hl⟩
  · exact ⟨rfl, (latchAll_spec source s).1, (latchAll_spec source s).2, noticeOutput_iff⟩
  · refine ⟨rfl, fun n => ?_, activeBits_bit c⟩
    rw [latched_bit]
    cases source <;> rfl

end Sys2Proof.PortLocations
end

section
/-! The Line Scheduler (R82, R83, R85 to R91, R96): what a run does in each state, the grant with its aging, and the first attempt's sequence bit. -/

namespace Sys2Proof.LineScheduler

open Sys2Proof.Machine

/-! ## A run of the scheduler (R82, R83, R85) -/

/-- The wish for a run is taken. -/
def runTaken (s : State) : State := s.setHand { s.hand with runAsked := false }

section
variable {s : State}

theorem exec_schedulerRun (hp : s.porst = false) : exec .schedulerRun s = .next (schedulerRun s) := internal_spec.1 hp

theorem schedulerRun_busy (hbusy : s.engine.state ≠ .idle) : schedulerRun s = runTaken s := if_neg hbusy

variable (hidle : s.engine.state = .idle)
include hidle

theorem schedulerRun_waits (hwait : ¬ allTaken s) : schedulerRun s = s := by
  rw [schedulerRun, if_pos hidle, if_neg ((endsTaken_iff s).not.2 hwait)]

variable (htaken : allTaken s)
include htaken

theorem schedulerRun_none (hnone : choose (runTaken s) = none) : schedulerRun s = runTaken s := by
  rw [schedulerRun, if_pos hidle, if_pos ((endsTaken_iff s).2 htaken)]
  simp only [runTaken] at hnone ⊢
  rw [hnone]

theorem schedulerRun_grants {c : ExClass} {i : SlotNo} (hchoice : choose (runTaken s) = some (c, i)) :
    schedulerRun s = grant c i (runTaken s) := by
  rw [schedulerRun, if_pos hidle, if_pos ((endsTaken_iff s).2 htaken)]
  simp only [runTaken] at hchoice ⊢
  rw [hchoice]

end

/-! ## The record of each slot after a grant (R88 to R90) -/

section
variable {s : State} {i j : SlotNo} {x : Exchange}

theorem afterGrant_self : afterGrant s i i x = { x with state := .active } := if_pos rfl

theorem afterGrant_other (hj : j ≠ i) (hx : ¬ (Grantable s x ∧ x.cls = .bulk)) : afterGrant s i j x = x := by
  rw [afterGrant, if_neg hj, if_neg (by rwa [eligible_iff])]

theorem afterGrant_aged (hj : j ≠ i) (hg : Grantable s x) (hb : x.cls = .bulk) :
    afterGrant s i j x = aged s.active.agingLimit x := by
  rw [afterGrant, if_neg hj, if_pos ⟨(eligible_iff s x).2 hg, hb⟩]

end

/-- A pass count rises by one below 15 and stays at 15 (R89). -/
theorem morePasses_eq (n : Nat) : morePasses n = if n < 15 then n + 1 else 15 := by
  unfold morePasses
  split_ifs <;> omega

/-! ## The grant (R86, R88 to R91) -/

/-- The grant without its attempt: the slot chosen ACTIVE and current, its class's pointer moved on, the others aged. -/
theorem granted_spec (i : SlotNo) (s : State) : Granted i s (ExchangeTable.granted (s.slot i).cls i s) := by
  refine ⟨?_, fun j hj hx => ?_, fun j hj hg hb => ?_, ?_, rfl, rfl⟩
  · rw [ExchangeTable.granted_slot, afterGrant_self]
  · rw [ExchangeTable.granted_slot, afterGrant_other hj hx]
  · rw [ExchangeTable.granted_slot, afterGrant_aged hj hg hb, aged, morePasses_eq]
  · cases hc : (s.slot i).cls <;> rfl

/-- A grant begins the first attempt, with the sequence bit of the station that the exchange names (R27, R88, R96). -/
theorem grant_begins (c : ExClass) (i : SlotNo) (s : State) :
    AttemptBegun i (firstSequence (s.slot i).station s) (ExchangeTable.granted c i s) (grant c i s) := by
  refine beginAttempt_spec i _ true (ExchangeTable.granted c i s) ?_
  rw [if_pos rfl, ExchangeTable.granted_slot, afterGrant_self]
  rfl

theorem firstSequence_broadcast {a : StationAddr} (ha : a = 0) (s : State) : firstSequence a s = false := by
  rw [firstSequence, record_broadcast ha]

theorem firstSequence_station {a : StationAddr} {n : StationNo} (ha : a = n.address) (s : State) :
    firstSequence a s = (s.station n).nextSeq := by
  rw [firstSequence, record_station ha]

/-- Settles O45: a run outside IDLE, one that waits, one with nothing to grant, and the grant of the first in order. -/
theorem runGrantsTheFirstInOrder : Obligations.RunGrantsTheFirstInOrder := by
  intro s hp u
  rw [exec_schedulerRun hp]
  refine ⟨fun hbusy => congrArg _ (schedulerRun_busy hbusy), fun hidle hwait => congrArg _ (schedulerRun_waits hidle hwait),
    fun hidle htaken hnone => congrArg _ (schedulerRun_none hidle htaken (choose_none hnone)),
    fun i hidle htaken hi hfirst => ?_⟩
  have hchoice : choose (runTaken s) = some ((s.slot i).cls, i) := choose_first (runTaken s) i hi hfirst
  rw [schedulerRun_grants hidle htaken hchoice]
  exact ⟨_, _, _, granted_spec i u, fun ha => firstSequence_broadcast ha u, fun n ha => firstSequence_station ha u,
    grant_begins (s.slot i).cls i u, rfl⟩

end Sys2Proof.LineScheduler
end

section
/-! The Line Engine's record (R93): what of the state it is judged by, and the tables, ports and timers, which leave that alone. -/

namespace Sys2Proof.LineEngine

open Sys2Proof.Machine

/-! ## What the record is judged by -/

/-- The report ends a frame of the part's own (R98). -/
def endsFrame (r : Report) : Bool := decide (r = .sent ∨ r = .cutComplete)

/-- The frames of the part's own that are outstanding: the one that holds the line, and the end reports not taken (R98). -/
def framesOut (l : Lif) : Nat := l.reports.countP endsFrame + (if l.tx = .released then 0 else 1)

/-- What the engine's record is judged by: the fields that R93's table speaks of, the frames outstanding, the engine's claim at the arbiter. -/
structure Record where
  state : EngineState
  current : Option SlotNo
  retryDue : Bool
  copyOutstanding : Bool
  frames : Nat
  claim : Option EngineClaim

def record (s : State) : Record :=
  ⟨s.engine.state, s.engine.current, s.engine.retryDue, s.engine.copyOutstanding, framesOut s.lif, s.engineClaim⟩

/-- From `s` to `t` the engine's record stays in order. -/
def EngineKept (s t : State) : Prop := EngineOk s → EngineOk t

section
variable {s t u : State}

theorem EngineKept.of_record (h : record t = record s) : EngineKept s t := by
  obtain ⟨hstate, hcurrent, hretry, hcopy, hframes, hclaim⟩ := Record.mk.inj h
  rintro ⟨hpresent, hout, hcopied⟩
  refine ⟨?_, ?_, ?_⟩
  · simpa only [hstate, hcurrent, hretry, hcopy] using hpresent
  · rw [hstate]
    exact hframes.trans hout
  · rwa [hcopy, hclaim]

theorem EngineKept.refl (s : State) : EngineKept s s := id

theorem EngineKept.trans (h : EngineKept s t) (h' : EngineKept t u) : EngineKept s u := h' ∘ h

/-- What follows and leaves the record does not matter to it. -/
theorem EngineKept.then_same (h : EngineKept s t) (h' : record u = record t) : EngineKept s u := h.trans (.of_record h')

/-- What came before and left the record does not matter to it. -/
theorem EngineKept.after_same (h' : record t = record s) (h : EngineKept t u) : EngineKept s u :=
  (EngineKept.of_record h').trans h

theorem EngineKept.ite {p : Prop} [Decidable p] (ht : EngineKept s t) (hu : EngineKept s u) :
    EngineKept s (if p then t else u) := by
  split
  · exact ht
  · exact hu

end

/-! ## The tables -/

/-- What the Station Table changes is apart from the engine's record. -/
theorem record_of_tableOnly {s t : State} (h : StationRecords.TableOnly s t) : record t = record s := by
  rw [← h]
  rfl

/-- A pass over a list leaves the record if each of its steps does. -/
theorem record_foldl {α : Type} {f : State → α → State} (hf : ∀ s a, record (f s a) = record s) :
    ∀ (l : List α) (s : State), record (l.foldl f s) = record s
  | [], _ => rfl
  | a :: l, s => (record_foldl hf l (f s a)).trans (hf s a)

section
variable (s : State)

/-- A choice between two states that leave the record leaves it. -/
theorem record_ite {p : Prop} [Decidable p] {t u : State} (ht : record t = record s) (hu : record u = record s) :
    record (if p then t else u) = record s := by
  split
  · exact ht
  · exact hu

theorem record_bufAlloc (h : HostId) : record (bufAlloc h s) = record s := by
  refine record_ite s rfl ?_
  split
  · rfl
  · exact record_ite s rfl rfl

theorem record_bufFree (h : HostId) : record (bufFree h s) = record s := by
  unfold bufFree
  split
  · rfl
  · exact record_ite s rfl (record_ite s rfl rfl)

theorem record_submit (h : HostId) : record (submit h s) = record s := by
  unfold submit
  split
  · rfl
  · split <;> rfl

theorem record_enterDone (i : SlotNo) (x : Exchange) : record (enterDone i x s) = record s := record_ite s rfl rfl

theorem record_takeEnd (e : ExchangeEnd) : record (takeEnd e s) = record s := by
  unfold takeEnd
  simp only []
  split
  case h_1 => exact record_enterDone _ _ _
  all_goals rfl

theorem record_exchangeEndTaken : record (exchangeEndTaken s) = record s := by
  unfold exchangeEndTaken
  split
  · rfl
  · exact record_takeEnd s _

theorem record_cancelSlot (h : HostId) (i : SlotNo) : record (cancelSlot h i s) = record s := by
  refine record_ite s rfl ?_
  split
  · exact record_enterDone s i _
  all_goals rfl

theorem record_cancel (h : HostId) : record (cancel h s) = record s := by
  have hsettled (i : SlotNo) : record (settleEnd i s) = record s := by
    unfold settleEnd
    split
    · rfl
    · exact record_ite s (record_takeEnd s _) rfl
  unfold cancel
  split
  · rfl
  · exact (record_cancelSlot _ h _).trans (hsettled _)

theorem record_readExchange (h : HostId) : record (readExchange h s) = record s := by
  unfold readExchange
  split
  · rfl
  · exact record_ite s rfl rfl

theorem record_stationFlush : record (stationFlush s) = record s := by
  unfold stationFlush
  split
  · rfl
  · exact record_foldl (fun t i => record_ite t (record_enterDone t i _) rfl) _ _

theorem record_resetSlots (h : HostId) : record (resetSlots h s) = record s := by
  refine record_foldl (fun t i => record_ite t rfl ?_) _ s
  split <;> rfl

theorem record_popCompletion (h : HostId) : record (popCompletion h s) = record s := by
  have hposted (t : State) : record (postFromBacklog h t) = record t := by
    unfold postFromBacklog
    split <;> rfl
  unfold popCompletion
  split
  · rfl
  · exact hposted _

theorem record_exchangeEndReport : record (exchangeEndReport s) = record s := by
  have htaken (r : EndReport) : record (takeReport r s) = record s := by
    rw [StationRecords.takeReport_eq]
    exact record_of_tableOnly (StationRecords.announced_table r s)
  unfold exchangeEndReport
  split
  · rfl
  · exact record_ite s rfl (htaken _)

theorem record_readStation (h : HostId) : record (readStation h s) = record s := by
  unfold readStation
  split <;> rfl

theorem record_subscribe (h : HostId) : record (subscribe h s) = record s := by
  unfold subscribe
  split
  · rfl
  · exact record_ite s rfl rfl

theorem record_unsubscribe (h : HostId) : record (unsubscribe h s) = record s := by
  unfold unsubscribe
  split
  · rfl
  · exact record_ite s rfl rfl

theorem record_revive (h : HostId) : record (revive h s) = record s := by
  unfold revive
  split
  · rfl
  · exact record_ite s (record_ite s (record_stationFlush s) rfl) rfl

theorem record_handOver (n : StationNo) : record (handOver n s) = record s := by
  cases hk : (s.station n).hold with
  | none => simp [handOver, hk]
  | some k =>
    obtain ⟨hold, -, hreplaced⟩ := StationRecords.handOver_replaces hk
    exact record_of_tableOnly hreplaced.table

theorem record_hold (h : HostId) : record (hold h s) = record s := by
  unfold hold
  split
  · rfl
  · refine record_ite s rfl ?_
    unfold holdStation
    simp only []
    split
    · exact record_ite s rfl rfl
    · exact record_ite s rfl (record_ite s rfl (record_ite s rfl rfl))

theorem record_release (h : HostId) : record (release h s) = record s := by
  unfold release
  split
  · rfl
  · unfold releaseStation
    simp only []
    split
    · rfl
    · exact record_ite s (record_handOver s _) (record_ite s rfl rfl)

theorem record_leaseExpiry (n : StationNo) : record (leaseExpiry n s) = record s := by
  have hexpired (k : Hold) (t : State) : record (expire n k t) = record t := record_handOver _ n
  have htick (t : State) : record (tickLease n t) = record t := by
    unfold tickLease
    split
    · rfl
    · exact record_ite t (hexpired _ t) rfl
  unfold leaseExpiry
  split
  · rfl
  · exact record_ite s (hexpired _ s) (record_ite s rfl (htick _))

theorem record_resetStations (h : HostId) : record (resetStations h s) = record s :=
  record_foldl (fun t n => record_ite t (record_handOver t n) rfl) _ _

theorem record_due (e : EntryNo) : record (due e s) = record s := by
  have hcreated {i : SlotNo} {t : State} (hc : createInstance e s = some (i, t)) : record t = record s := by
    unfold createInstance at hc
    split_ifs at hc
    split at hc
    · cases hc
    · cases hc
      rfl
  refine record_ite s rfl (record_ite s rfl ?_)
  split
  · next i t hc =>
    have ht : record t = record s := hcreated hc
    exact ht
  · rfl

theorem record_pollDue (e : EntryNo) : record (pollDue e s) = record s := by
  have htick (t : State) : record (tickEntry e t) = record t :=
    record_ite t (record_ite t (record_due _ e) rfl) rfl
  exact record_ite s (htick s) (record_ite s rfl (htick _))

theorem record_pollStart (h : HostId) : record (pollStart h s) = record s := by
  have harmed (e : EntryNo) : record (arm h e s) = record s := record_ite s (record_due _ e) rfl
  unfold pollStart
  split
  · rfl
  · split
    · rfl
    · exact harmed _

theorem record_pollRetime (h : HostId) : record (pollRetime h s) = record s := by
  have hretimed (e : EntryNo) (period first : Word16) : record (retime e period first s) = record s :=
    record_ite s (record_due _ e) rfl
  unfold pollRetime
  split
  · rfl
  · exact record_ite s rfl (record_ite s rfl (record_ite s rfl (hretimed _ _ _)))

theorem record_takeInstEnd (d : InstanceEnd) : record (takeInstEnd d s) = record s := by
  unfold takeInstEnd
  simp only []
  split
  · refine record_ite s ?_ rfl
    split
    · exact record_ite s rfl rfl
    · rfl
  all_goals rfl

theorem record_instanceEnd : record (instanceEnd s) = record s := by
  unfold instanceEnd
  split
  · rfl
  · exact record_takeInstEnd s _

theorem record_pollStop (h : HostId) : record (pollStop h s) = record s := by
  have hsettled (e : EntryNo) : record (settleInstEnd e s) = record s := by
    unfold settleInstEnd
    split
    · rfl
    · exact record_ite s (record_takeInstEnd s _) rfl
  have hstopped (e : EntryNo) (t : State) : record (stopEntry h e t) = record t := by
    refine record_ite t rfl (record_ite t rfl ?_)
    unfold stopArmed
    split
    · rfl
    · exact record_ite t rfl (record_ite t rfl rfl)
  unfold pollStop
  split
  · rfl
  · exact record_ite s rfl ((hstopped _ _).trans (hsettled _))

theorem record_readPoll (h : HostId) : record (readPoll h s) = record s := by
  unfold readPoll
  split <;> rfl

theorem record_resetEntries (h : HostId) : record (resetEntries h s) = record s := by
  have hsettled : record (settleOwnInstEnd h s) = record s := by
    unfold settleOwnInstEnd
    split
    · rfl
    · exact record_ite s (record_takeInstEnd s _) rfl
  exact hsettled

/-! ## Ports, settings and time -/

theorem record_noticeCodeRead (h : HostId) : record (noticeCodeRead h s) = record s := by
  unfold noticeCodeRead
  split <;> rfl

theorem record_setSettings (h : HostId) : record (setSettings h s) = record s := record_ite s rfl (record_ite s rfl rfl)

theorem record_applyStaged : record (applyStaged s) = record s := by
  unfold applyStaged
  split <;> rfl

theorem record_serveClaim (h : HostId) (c : PortClaim) : record (serveClaim h c s) = record s := by
  cases c with
  | read offset =>
    simp only [serveClaim, serveRead]
    split <;> rfl
  | write offset value =>
    simp only [serveClaim, serveWrite]
    split <;> rfl
  | clear b owned free => rfl

theorem record_hostPortResetAssert (h : HostId) : record (hostPortResetAssert h s) = record s := by
  have habandoned : record (abandonAccess h s) = record s := by
    unfold abandonAccess
    split
    · exact record_ite s rfl rfl
    · rfl
  refine record_ite s rfl ?_
  split
  · rfl
  · exact habandoned

theorem record_hostPortResetRelease (h : HostId) : record (hostPortResetRelease h s) = record s := by
  refine record_ite s rfl ?_
  split <;> rfl

theorem record_portResetPart (h : HostId) : record (portResetPart h s) = record s := record_ite s rfl rfl
theorem record_powerOnResetRelease : record (powerOnResetRelease s) = record s := record_ite s rfl rfl
theorem record_tick : record (tick s) = record s :=
  record_ite s rfl (show record (tickEngine s) = record s from record_ite s rfl rfl)

/-- A clock period counts the guard and the measures of the line, and neither begins nor ends a frame (R94). -/
theorem record_clockPeriod : record (clockPeriod s) = record s := by
  refine record_ite s rfl ?_
  simp only [record]
  split <;> rfl

end

end Sys2Proof.LineEngine
end

section
/-! The events of the Line Interface (R10 to R19): each frame that is begun ends in one report of its end (R98), and no other event begins or ends one. -/

namespace Sys2Proof.LineEngine

open Sys2Proof.Machine

/-! ## The frames outstanding -/

theorem framesOut_give (l : Lif) (r : Report) :
    framesOut (l.give r) = framesOut l + (if endsFrame r then 1 else 0) := by
  have hcount : (l.reports ++ [r]).countP endsFrame = l.reports.countP endsFrame + if endsFrame r then 1 else 0 := by
    rw [List.countP_append, List.countP_singleton]
  exact (congrArg (· + _) hcount).trans (Nat.add_right_comm _ _ _)

theorem framesOut_give_other (l : Lif) {r : Report} (hr : endsFrame r = false) : framesOut (l.give r) = framesOut l := by
  rw [framesOut_give, hr]
  rfl

/-- While the transmit side holds the line a frame is outstanding, whatever it is at. -/
theorem framesOut_tx {l m : Lif} (hr : m.reports = l.reports) (hl : l.tx ≠ .released) (hm : m.tx ≠ .released) :
    framesOut m = framesOut l := by
  simp [framesOut, hr, hl, hm]

theorem tx_of_no_frames {l : Lif} (h : framesOut l = 0) : l.tx = .released := by
  by_contra hl
  simp [framesOut, hl] at h

/-! ## What keeps the record in order -/

section
variable {s t : State}

/-- A change of the Line Interface that begins and ends no frame. -/
theorem EngineKept.lif {l : Lif} (h : framesOut l = framesOut s.lif) : EngineKept s (s.setLif l) := by
  refine .of_record ?_
  simp [record, h]

/-- While a frame is outstanding the engine is in SENDING, and no copy claim waits (R93, R98). -/
theorem sending_of_frame (hs : EngineOk s) (ht : s.lif.tx ≠ .released) :
    s.engine.state = .sending ∧ s.engine.copyOutstanding = false := by
  obtain ⟨hpresent, hframes, -⟩ := hs
  rw [if_neg ht] at hframes
  have hstate : s.engine.state = .sending := by
    by_contra hne
    rw [if_neg hne] at hframes
    omega
  rw [hstate] at hpresent
  exact ⟨hstate, hpresent.2.2⟩

/-- The engine's claim changes to one that is no copy, where it was none. -/
theorem EngineKept.claim {c : Option EngineClaim}
    (h : EngineOk s → ((∃ b n, c = some (.copy b n)) ↔ ∃ b n, s.engineClaim = some (.copy b n))) :
    EngineKept s { s with engineClaim := c } :=
  fun hs => ⟨hs.1, hs.2.1, hs.2.2.trans (h hs).symm⟩

end

/-! ## Sending (R10 to R13) -/

section
variable {s : State}

theorem dropFetch_copy (c : Option EngineClaim) (b : BufNo) (n : Nat) :
    dropFetch c = some (.copy b n) ↔ c = some (.copy b n) := by
  rcases c with _ | _ | _ <;> simp [dropFetch]

theorem cut_kept (s : State) : EngineKept s (cut s) := by
  unfold cut
  simp only []
  split_ifs with hsends
  · have hopen : s.lif.tx ≠ .released := by rcases hsends with h | h <;> simp [h]
    exact (EngineKept.lif (framesOut_tx (m := { s.lif with tx := .cutting, sending := _ }) rfl hopen (by simp))).trans
      (.claim fun _ => exists_congr fun b => exists_congr fun n => dropFetch_copy _ b n)
  · exact .refl s

theorem collide_kept (s : State) : EngineKept s (collide s) :=
  (EngineKept.lif (framesOut_give_other s.lif rfl)).trans (cut_kept _)

/-- A fetch is claimed only while a frame is outstanding, and then no copy is (R52). -/
theorem placeFetch_kept (i : Nat) (ht : s.lif.tx ≠ .released) : EngineKept s (placeFetch i s) := by
  have hfetch (b : BufNo) : EngineKept s { s with engineClaim := some (.fetch b (i - 2)) } := by
    refine .claim fun hs => ?_
    rw [← hs.2.2, (sending_of_frame hs ht).2]
    simp
  refine .ite ?_ (.refl s)
  split
  · exact .refl s
  · split
    · exact .refl s
    · exact hfetch _

theorem beginCharacter_kept (i : Nat) (v : Byte) (c : Word16) (p : Option Byte) (ht : s.lif.tx ≠ .released) :
    EngineKept s (beginCharacter i v c p s) := by
  have hchars : TxSide.characters ≠ .released := by decide
  refine EngineKept.trans ?_ (placeFetch_kept i hchars)
  exact .lif (framesOut_tx rfl ht hchars)

theorem openingBreakEnd_kept (s : State) : EngineKept s (openingBreakEnd s) := by
  unfold openingBreakEnd
  simp only []
  split_ifs with hopening
  · exact beginCharacter_kept _ _ _ _ (by simp [hopening.1])
  · exact .refl s

theorem characterSent_kept (s : State) : EngineKept s (characterSent s) := by
  unfold characterSent
  simp only []
  split_ifs with hchars
  · exact collide_kept s
  · exact .lif rfl
  · split
    · exact .refl s
    · exact beginCharacter_kept _ _ _ _ (by simp [hchars.1])
  · exact .refl s

theorem echoCollision_kept (s : State) : EngineKept s (echoCollision s) := .ite (collide_kept s) (.refl s)

/-- The driver is released with the report that its frame has ended. -/
theorem driverReleased_kept {r : Report} (hr : endsFrame r = true) (ht : s.lif.tx ≠ .released) :
    EngineKept s ((releaseDriver s).setLif ((releaseDriver s).lif.give r)) := by
  refine .lif (s := s) ?_
  rw [framesOut_give, hr]
  simp [framesOut, releaseDriver, ht]

theorem frameSent_kept (s : State) : EngineKept s (frameSent s) := by
  unfold frameSent
  simp only []
  split_ifs with hchars
  · exact driverReleased_kept rfl (by simp [hchars.1])
  · exact .refl s

theorem cutBreakEnd_kept (s : State) : EngineKept s (cutBreakEnd s) := by
  unfold cutBreakEnd
  simp only []
  split_ifs with hcutting
  · exact driverReleased_kept rfl (by simp [hcutting])
  · exact .refl s

end

/-! ## Receiving (R3, R5, R14 to R19) -/

section
variable (s : State)

theorem failFrame_kept (reason : BadReason) : EngineKept s (failFrame reason s) :=
  .lif (framesOut_give_other { s.lif with rx := .hunt, gap := none } rfl)

theorem openFrame_kept : EngineKept s (openFrame s) := by
  have habandoned : framesOut (if s.lif.rx = .assembling then s.lif.give (.badFrame .brk) else s.lif) = framesOut s.lif := by
    split
    · exact framesOut_give_other _ rfl
    · rfl
  exact .lif ((framesOut_give_other _ rfl).trans habandoned)

theorem rise_kept : EngineKept s (rise s) := by
  unfold rise
  simp only []
  split <;> exact .lif rfl

theorem fall_kept : EngineKept s (fall s) := .lif rfl

theorem breakDetected_kept : EngineKept s (breakDetected s) := by
  unfold breakDetected
  split
  · exact .refl s
  · next r _ =>
    have hrun : EngineKept s (s.setLif { s.lif with run := some { r with reached := true }, char := none }) := .lif rfl
    refine .ite (.refl s) ?_
    split
    · exact .ite (hrun.trans (.lif rfl)) (.ite (hrun.trans (collide_kept _)) hrun)
    · exact .refl s
    · exact .refl s
    · exact hrun.trans (openFrame_kept _)
    · exact hrun.trans (openFrame_kept _)

theorem halfBitSample_kept : EngineKept s (halfBitSample s) := by
  have hglitch : EngineKept s (s.setLif { s.lif with char := none }) := .lif rfl
  unfold halfBitSample
  simp only []
  split
  · exact .refl s
  · exact .ite (.refl s) (.ite (.ite (hglitch.trans (failFrame_kept _ _)) hglitch) (.lif rfl))

theorem gapLimit_kept : EngineKept s (gapLimit s) := by
  unfold gapLimit
  simp only []
  split
  · exact .ite (.refl s) (.ite (.lif rfl) (failFrame_kept s _))
  · exact .refl s

theorem assemble_kept (b : Byte) (halfBit : Nat) : EngineKept s (assemble b halfBit s) := by
  have hstored : EngineKept s (s.setLif { s.lif with frame := storeCharacter b s.lif.frame }) := .lif rfl
  exact .ite (hstored.trans (failFrame_kept _ _))
    (.ite (.ite (hstored.trans (.lif (framesOut_give_other _ rfl))) (hstored.trans (failFrame_kept _ _)))
      (hstored.trans (.lif rfl)))

theorem characterTaken_kept (b : Byte) : EngineKept s (characterTaken b s) := by
  have htaken : EngineKept s (s.setLif { s.lif with char := none }) := .lif rfl
  unfold characterTaken
  simp only []
  split
  · exact .refl s
  · refine .ite ?_ (.refl s)
    split
    · exact htaken.trans (assemble_kept _ _ _)
    · exact .ite (htaken.trans (.lif rfl)) htaken
    · exact htaken

theorem framingError_kept : EngineKept s (framingError s) := by
  unfold framingError
  split
  · exact .refl s
  · refine .ite ?_ (.refl s)
    have hback : EngineKept s (if s.lif.input then s else rise s) := .ite (.refl s) (rise_kept s)
    generalize (if s.lif.input then s else rise s) = t at hback
    have hdropped : EngineKept s (t.setLif { t.lif with char := none }) := hback.trans (.lif rfl)
    simp only []
    split
    · exact hdropped.trans (failFrame_kept _ _)
    · exact .ite (hdropped.trans (.lif rfl)) hdropped
    · exact hdropped

theorem stuckDetected_kept : EngineKept s (stuckDetected s) := .ite (.lif (framesOut_give_other _ rfl)) (.refl s)
theorem lineRecovered_kept : EngineKept s (lineRecovered s) := .ite (.lif (framesOut_give_other _ rfl)) (.refl s)

theorem act_kept (e : RxEvent) : EngineKept s (e.act s) := by
  cases e with
  | halfBit => exact halfBitSample_kept s
  | taken v => exact characterTaken_kept s v
  | framing => exact framingError_kept s
  | brk => exact breakDetected_kept s
  | stuck => exact stuckDetected_kept s
  | gap => exact gapLimit_kept s
  | recovery => exact lineRecovered_kept s

theorem takeDue_kept : ∀ (n : Nat) (s : State), EngineKept s (takeDue n s)
  | 0, s => .refl s
  | n + 1, s => by
    unfold takeDue
    split
    · exact .refl s
    · exact (act_kept s _).trans (takeDue_kept n _)

theorem catchUp_kept : EngineKept s (catchUp s) := takeDue_kept 8 s

theorem breakEnd_kept : EngineKept s (breakEnd s) := .ite ((catchUp_kept s).trans (rise_kept _)) (.refl s)

theorem spaceToMarkEdge_kept : EngineKept s (spaceToMarkEdge s) :=
  .ite (.lif rfl) (.ite (.refl s) ((catchUp_kept s).trans (rise_kept _)))

theorem markToSpaceEdge_kept : EngineKept s (markToSpaceEdge s) :=
  .ite (.lif rfl) (.ite ((catchUp_kept s).trans (fall_kept _)) (.refl s))

end

end Sys2Proof.LineEngine
end

section
/-! The Line Engine's own events (R93 to R110): attempts begun and ended, reports taken, the guard, the scheduler's grant, the arbiter's service. -/

namespace Sys2Proof.LineEngine

open Sys2Proof.Machine

/-! ## An attempt under way, and the engine between attempts -/

/-- The engine has a current exchange, and no copy of its reply is outstanding; so many frames of its own are. -/
structure UnderWay (frames : Nat) (s : State) : Prop where
  current : s.engine.current.isSome
  copy : s.engine.copyOutstanding = false
  frames : framesOut s.lif = frames
  claim : ∀ b n, s.engineClaim ≠ some (.copy b n)

/-- No frame of the part's own is outstanding, and the current exchange is present only for a retry or a copy (R93). -/
structure AtRest (s : State) : Prop where
  current : s.engine.current.isSome = (s.engine.retryDue || s.engine.copyOutstanding)
  frames : framesOut s.lif = 0
  claim : s.engine.copyOutstanding = true ↔ ∃ b n, s.engineClaim = some (.copy b n)

section
variable {s : State}

/-- The engine's state and its retry do not matter to an attempt under way. -/
theorem UnderWay.congr {n : Nat} {t : State} (h : UnderWay n s)
    (ht : { record t with state := s.engine.state, retryDue := s.engine.retryDue } = record s) : UnderWay n t := by
  obtain ⟨-, hcurrent, -, hcopy, hframes, hclaim⟩ := Record.mk.inj ht
  exact ⟨(congrArg Option.isSome hcurrent).trans h.current, hcopy.trans h.copy, hframes.trans h.frames,
    fun b k hk => h.claim b k (hclaim.symm.trans hk)⟩

theorem noCopyClaim (hs : EngineOk s) (hc : s.engine.copyOutstanding = false) (b : BufNo) (n : Nat) :
    s.engineClaim ≠ some (.copy b n) := fun h => by
  have hout := hs.2.2.2 ⟨b, n, h⟩
  simp [hc] at hout

theorem underWay_of_sending (hs : EngineOk s) (hst : s.engine.state = .sending) :
    UnderWay 1 s ∧ s.engine.retryDue = false := by
  obtain ⟨hpresent, hframes, -⟩ := id hs
  rw [hst] at hpresent hframes
  exact ⟨⟨hpresent.1, hpresent.2.2, hframes, noCopyClaim hs hpresent.2.2⟩, hpresent.2.1⟩

theorem underWay_of_waiting (hs : EngineOk s) (hst : s.engine.state = .awaiting ∨ s.engine.state = .receiving) :
    UnderWay 0 s ∧ s.engine.retryDue = false := by
  obtain ⟨hpresent, hframes, -⟩ := id hs
  rcases hst with hst | hst <;> rw [hst] at hpresent hframes <;>
    exact ⟨⟨hpresent.1, hpresent.2.2, hframes, noCopyClaim hs hpresent.2.2⟩, hpresent.2.1⟩

theorem atRest_of_engineOk (hs : EngineOk s)
    (hst : s.engine.state = .quiet ∨ s.engine.state = .idle ∨ s.engine.state = .stuck) : AtRest s := by
  obtain ⟨hpresent, hframes, hclaim⟩ := hs
  rcases hst with hst | hst | hst <;> rw [hst] at hpresent hframes
  · exact ⟨hpresent, hframes, hclaim⟩
  · obtain ⟨hcurrent, hretry, hcopy⟩ := hpresent
    exact ⟨by simp [hcurrent, hretry, hcopy], hframes, hclaim⟩
  · exact ⟨hpresent, hframes, hclaim⟩

theorem UnderWay.claim_iff {n : Nat} (h : UnderWay n s) :
    s.engine.copyOutstanding = true ↔ ∃ b k, s.engineClaim = some (.copy b k) := by
  simp [h.copy, h.claim]

theorem UnderWay.sending (h : UnderWay 1 s) (hr : s.engine.retryDue = false) (hst : s.engine.state = .sending) : EngineOk s := by
  refine ⟨?_, ?_, h.claim_iff⟩ <;> rw [hst]
  · exact ⟨h.current, hr, h.copy⟩
  · exact h.frames

theorem UnderWay.waiting (h : UnderWay 0 s) (hr : s.engine.retryDue = false)
    (hst : s.engine.state = .awaiting ∨ s.engine.state = .receiving) : EngineOk s := by
  rcases hst with hst | hst <;> refine ⟨?_, ?_, h.claim_iff⟩ <;> rw [hst]
  · exact ⟨h.current, hr, h.copy⟩
  · exact h.frames
  · exact ⟨h.current, hr, h.copy⟩
  · exact h.frames

theorem AtRest.ok (h : AtRest s) (hst : s.engine.state = .quiet ∨ s.engine.state = .stuck) : EngineOk s := by
  rcases hst with hst | hst <;> refine ⟨?_, ?_, h.claim⟩ <;> rw [hst]
  · exact h.current
  · exact h.frames
  · exact h.current
  · exact h.frames

/-! ## Ending and beginning an attempt (R96, R103 to R105) -/

/-- The end of an exchange leaves the engine none. -/
theorem exchangeEnd_rest (h : UnderWay 0 s) (i : SlotNo) (r : AttemptResult) : AtRest (exchangeEnd i r s) :=
  ⟨by simp [exchangeEnd, h.copy], h.frames, h.claim_iff⟩

/-- The end of an attempt leaves the exchange for its retry, or ends it. -/
theorem attemptEnd_rest (h : UnderWay 0 s) (r : AttemptResult) : AtRest (attemptEnd r s) := by
  obtain ⟨i, hi⟩ := Option.isSome_iff_exists.1 h.current
  have hrecorded : UnderWay 0 (ExchangeTable.resultRecorded i r s) := h.congr rfl
  rw [ExchangeTable.attemptEnd_eq hi]
  split
  · exact ⟨by simpa using hrecorded.current, h.frames, h.claim_iff⟩
  · exact exchangeEnd_rest hrecorded i r

theorem attemptEnd_state (r : AttemptResult) (s : State) : (attemptEnd r s).engine.state = s.engine.state := by
  unfold attemptEnd
  split
  · rfl
  · simp only []
    split <;> rfl

theorem attemptEnd_ok (h : UnderWay 0 s) (hst : s.engine.state = .quiet ∨ s.engine.state = .stuck) (r : AttemptResult) :
    EngineOk (attemptEnd r s) :=
  (attemptEnd_rest h r).ok (by rwa [attemptEnd_state])

/-- The attempt's end in QUIET, after a change of state that leaves it under way. -/
theorem attemptEnd_quiet {t : State} (h : UnderWay 0 t) (frame : Bool) (r : AttemptResult) :
    EngineOk (attemptEnd r (enterQuiet frame t)) :=
  attemptEnd_ok (s := enterQuiet frame t) (h.congr rfl) (.inl rfl) r

/-- The attempt's end in STUCK (R107). -/
theorem attemptEnd_stuck {t : State} (h : UnderWay 0 t) (r : AttemptResult) :
    EngineOk (attemptEnd r (stopTimer (enterStuck t))) := by
  have hparked : UnderWay 0 (enterStuck t) := h.congr rfl
  exact attemptEnd_ok (s := stopTimer (enterStuck t)) (hparked.congr rfl) (.inr rfl) r

/-- An attempt that begins with no frame outstanding has one outstanding (R10, R96). -/
theorem beginAttempt_ok (h : UnderWay 0 s) (hr : s.engine.retryDue = false) (i : SlotNo) (first : Bool) :
    EngineOk (beginAttempt i first s) := by
  have htx : s.lif.tx = .released := tx_of_no_frames h.frames
  have hreports : s.lif.reports.countP endsFrame = 0 := by
    simpa [framesOut, htx] using h.frames
  have hbegun := beginAttempt_spec i _ first s rfl
  obtain ⟨-, hopens⟩ := hbegun
  obtain ⟨ht, -, -, -, -, -, -, -, -, -, -, -, -, -, -, -, -, -, -, -, -, -, hreps, hrest⟩ := hopens htx
  generalize beginAttempt i first s = t at ht hreps hrest ⊢
  have hengine := congrArg State.engine hrest
  have hclaim := congrArg State.engineClaim hrest
  simp only [State.setEngine_engine, State.setEngine_engineClaim, State.setSlot_engineClaim] at hengine hclaim
  refine UnderWay.sending ⟨?_, ?_, ?_, ?_⟩ ?_ ?_
  · rw [hengine]; exact h.current
  · rw [hengine]; exact h.copy
  · simp [framesOut, ht, hreps, hreports]
  · rw [hclaim]; exact h.claim
  · rw [hengine]; exact hr
  · rw [hengine]

/-! ## Entries to QUIET, IDLE and STUCK -/

theorem AtRest.enterQuiet (h : AtRest s) (frame : Bool) : EngineOk (enterQuiet frame s) :=
  AtRest.ok ⟨h.current, h.frames, h.claim⟩ (.inl rfl)

theorem AtRest.enterStuck (h : AtRest s) : EngineOk (enterStuck s) :=
  AtRest.ok ⟨h.current, h.frames, h.claim⟩ (.inr rfl)

theorem AtRest.enterIdle (h : AtRest s) (hr : s.engine.retryDue = false) (hc : s.engine.copyOutstanding = false) :
    EngineOk (enterIdle s) := by
  have hcurrent : s.engine.current = none := by simpa [hr, hc] using h.current
  have hidle : EngineOk (s.setEngine { s.engine with state := .idle }) := ⟨⟨hcurrent, hr, hc⟩, h.frames, h.claim⟩
  exact EngineKept.of_record (record_applyStaged _) hidle

end

/-! ## The reports of the Line Interface -/

section
variable {s : State}

/-- A report taken keeps the record in order if what takes it does. -/
theorem withReport_kept {act : Report → State → Option State}
    (h : ∀ r rest u, s.lif.reports = r :: rest → act r (FieldLine.reportTaken rest s) = some u → EngineKept s u) :
    EngineKept s (withReport s act) := by
  unfold withReport
  split
  · exact .refl s
  · next r rest hr =>
    cases hu : act r (s.setLif { s.lif with reports := rest }) with
    | none => exact .refl s
    | some u => exact h r rest u hr hu

/-- The frames outstanding once the first report has been taken. -/
theorem framesOut_taken {r : Report} {rest : List Report} (hr : s.lif.reports = r :: rest) :
    framesOut (FieldLine.reportTaken rest s).lif + (if endsFrame r then 1 else 0) = framesOut s.lif := by
  have hcount : s.lif.reports.countP endsFrame = rest.countP endsFrame + if endsFrame r then 1 else 0 := by
    rw [hr, List.countP_cons]
  exact (Nat.add_right_comm _ _ _).trans (congrArg (· + _) hcount.symm)

/-- A report of anything but a frame's end leaves the frames outstanding. -/
theorem reportTaken_kept {r : Report} {rest : List Report} (hr : s.lif.reports = r :: rest) (he : endsFrame r = false) :
    EngineKept s (FieldLine.reportTaken rest s) := by
  refine .lif ?_
  have htaken := framesOut_taken hr
  rwa [he] at htaken

/-- The report of its frame's end comes while the engine is in SENDING, and no frame is outstanding after it (R98). -/
theorem endReport_taken {r : Report} {rest : List Report} (hs : EngineOk s) (hr : s.lif.reports = r :: rest)
    (he : endsFrame r = true) : s.engine.state = .sending ∧ UnderWay 0 (FieldLine.reportTaken rest s)
      ∧ s.engine.retryDue = false := by
  have htaken := framesOut_taken hr
  rw [he, if_pos rfl] at htaken
  have hst : s.engine.state = .sending := by
    by_contra hne
    have hframes : framesOut s.lif = if s.engine.state = .sending then 1 else 0 := hs.2.1
    rw [if_neg hne] at hframes
    omega
  obtain ⟨hway, hretry⟩ := underWay_of_sending hs hst
  have hframes := hway.frames
  exact ⟨hst, ⟨hway.current, hway.copy, by omega, hway.claim⟩, hretry⟩

theorem sentReport_kept (s : State) : EngineKept s (sentReport s) := by
  refine withReport_kept fun r rest u hr hu hs => ?_
  cases r <;> cases hu
  obtain ⟨hst, hway, hretry⟩ := endReport_taken hs hr rfl
  obtain ⟨i, hi⟩ := Option.isSome_iff_exists.1 hway.current
  have hcounted : UnderWay 0 (ExchangeTable.sentCounted i (FieldLine.reportTaken rest s)) :=
    hway.congr rfl
  have hsending : takeSent (FieldLine.reportTaken rest s) = sentInSending i (FieldLine.reportTaken rest s) := by
    simp only [takeSent, show (FieldLine.reportTaken rest s).engine.state = .sending from hst, hi]
  rw [hsending]
  unfold sentInSending
  simp only []
  split
  · exact attemptEnd_quiet hcounted _ _
  · split
    · exact attemptEnd_quiet hcounted _ _
    · exact UnderWay.waiting (hway.congr rfl) hretry (.inl rfl)

theorem cutCompleteReport_kept (s : State) : EngineKept s (cutCompleteReport s) := by
  refine withReport_kept fun r rest u hr hu hs => ?_
  cases r <;> cases hu
  obtain ⟨hst, hway, -⟩ := endReport_taken hs hr rfl
  have hsending : (FieldLine.reportTaken rest s).engine.state = .sending := hst
  rw [takeCutComplete, if_pos hsending]
  exact attemptEnd_quiet hway _ _

theorem record_takeCollision (s : State) : record (takeCollision s) = record s := record_ite s rfl rfl

theorem collisionReport_kept (s : State) : EngineKept s (collisionReport s) := by
  refine withReport_kept fun r rest u hr hu => ?_
  cases r <;> cases hu
  exact (reportTaken_kept hr rfl).then_same (record_takeCollision _)

theorem takeFrameStart_kept (s : State) : EngineKept s (takeFrameStart s) := by
  unfold takeFrameStart
  split
  · exact .of_record rfl
  · next hst => exact fun hs => (atRest_of_engineOk hs (.inr (.inl hst))).enterQuiet true
  · next hst =>
    intro hs
    obtain ⟨hway, hretry⟩ := underWay_of_waiting hs (.inl hst)
    exact UnderWay.waiting (hway.congr rfl) hretry (.inr rfl)
  · exact .refl s

theorem frameStartReport_kept (s : State) : EngineKept s (frameStartReport s) := by
  refine withReport_kept fun r rest u hr hu => ?_
  cases r <;> cases hu
  exact (reportTaken_kept hr rfl).trans (takeFrameStart_kept _)

/-- The end of a frame outside a reply wait counts it and at most restarts the guard (R94, R109). -/
theorem strayEnd_kept (count : Stats → Stats) (s : State) : EngineKept s (strayEnd count s) := by
  unfold strayEnd
  simp only []
  split_ifs with hstuck hquiet
  · exact .refl s
  · exact .of_record (by simp [record, enterQuiet, hquiet])
  · exact .of_record rfl

/-- A discarded frame leaves the attempt waiting for its reply (R101). -/
theorem discardFrame_kept (x : Stats) (hst : s.engine.state = .receiving) : EngineKept s (discardFrame x s) := by
  intro hs
  obtain ⟨hway, hretry⟩ := underWay_of_waiting hs (.inr hst)
  exact UnderWay.waiting (hway.congr rfl) hretry (.inl rfl)

/-- The copy of a reply claimed in QUIET or STUCK is what the current exchange is present for (R93, R102). -/
theorem copyClaimed_ok (h : UnderWay 0 s) (hst : s.engine.state = .quiet ∨ s.engine.state = .stuck) (b : BufNo) (n : Nat) :
    EngineOk (BufferPool.copyClaimed b n s) :=
  AtRest.ok ⟨h.current.trans (Bool.or_true _).symm, h.frames, iff_of_true rfl ⟨b, n, rfl⟩⟩ hst

/-- An accepted frame's copy is claimed, or its attempt ends (R102). -/
theorem acceptFrame_kept (i : SlotNo) (f : FrameInfo) (hst : s.engine.state = .receiving) :
    EngineKept s (acceptFrame i f s) := by
  intro hs
  obtain ⟨hway, hretry⟩ := underWay_of_waiting hs (.inr hst)
  have hkept : UnderWay 0 (BufferPool.replyKept i f s) := hway.congr rfl
  by_cases h : (s.slot i).replyBuffer = none ∨ f.length = 0
  · rw [BufferPool.acceptFrame_ends h]
    exact attemptEnd_ok hkept (.inl rfl) _
  · obtain ⟨hb, hf⟩ := not_or.1 h
    obtain ⟨b, hb⟩ := Option.ne_none_iff_exists'.1 hb
    rw [BufferPool.acceptFrame_claims hb hf]
    exact copyClaimed_ok hkept (.inl rfl) b f.length

theorem takeFrameComplete_kept (f : FrameInfo) (s : State) : EngineKept s (takeFrameComplete f s) := by
  unfold takeFrameComplete
  split
  · next hst _ =>
    unfold completeInReceiving
    split
    · exact discardFrame_kept _ hst
    · exact discardFrame_kept _ hst
    · exact acceptFrame_kept _ f hst
  · exact strayEnd_kept id s

theorem frameCompleteReport_kept (s : State) : EngineKept s (frameCompleteReport s) := by
  refine withReport_kept fun r rest u hr hu => ?_
  cases r <;> cases hu
  exact (reportTaken_kept hr rfl).trans (takeFrameComplete_kept _ _)

theorem takeBadFrame_kept (reason : BadReason) (s : State) : EngineKept s (takeBadFrame reason s) := by
  unfold takeBadFrame
  split
  · next hst =>
    intro hs
    obtain ⟨hway, -⟩ := underWay_of_waiting hs (.inr hst)
    have hcounted (x : Stats) : UnderWay 0 (stopTimer (s.setStats x)) := hway.congr rfl
    exact attemptEnd_quiet (hcounted _) false .badReply
  · exact strayEnd_kept _ s

theorem badFrameReport_kept (s : State) : EngineKept s (badFrameReport s) := by
  refine withReport_kept fun r rest u hr hu => ?_
  cases r <;> cases hu
  exact (reportTaken_kept hr rfl).trans (takeBadFrame_kept _ _)

/-- The stuck line parks the engine, an attempt that waits for its reply ended (R107). -/
theorem takeStuck_kept (s : State) : EngineKept s (takeStuck s) := by
  have hparks (hst : s.engine.state = .quiet ∨ s.engine.state = .idle) : EngineKept s (takeStuck s) := by
    intro hs
    have hrest := atRest_of_engineOk hs (hst.imp_right .inl)
    rw [FieldLine.takeStuck_parks hst]
    exact AtRest.enterStuck ⟨hrest.current, hrest.frames, hrest.claim⟩
  have hends (hst : s.engine.state = .awaiting ∨ s.engine.state = .receiving) : EngineKept s (takeStuck s) := by
    intro hs
    obtain ⟨hway, -⟩ := underWay_of_waiting hs hst
    have hcounted : UnderWay 0 (FieldLine.stuckCounted s) := hway.congr rfl
    rw [FieldLine.takeStuck_endsAttempt hst]
    exact attemptEnd_stuck hcounted .lineStuck
  cases hst : s.engine.state with
  | quiet => exact hparks (.inl hst)
  | idle => exact hparks (.inr hst)
  | sending => rw [FieldLine.takeStuck_sending hst]; exact .of_record rfl
  | awaiting => exact hends (.inl hst)
  | receiving => exact hends (.inr hst)
  | stuck => simp only [takeStuck, hst]; exact .of_record rfl

theorem stuckReport_kept (s : State) : EngineKept s (stuckReport s) := by
  refine withReport_kept fun r rest u hr hu => ?_
  cases r <;> cases hu
  exact (reportTaken_kept hr rfl).trans (takeStuck_kept _)

theorem takeRecovery_kept (s : State) : EngineKept s (takeRecovery s) := by
  unfold takeRecovery
  split_ifs with hst
  · exact fun hs => (atRest_of_engineOk hs (.inr (.inr hst))).enterQuiet false
  · exact .refl s

theorem recoveryReport_kept (s : State) : EngineKept s (recoveryReport s) := by
  refine withReport_kept fun r rest u hr hu => ?_
  cases r <;> cases hu
  exact (reportTaken_kept hr rfl).trans (takeRecovery_kept _)

end

/-! ## The reply timer, the guard, LINE_RESET -/

section
variable (s : State)

theorem replyTimerExpiry_kept : EngineKept s (replyTimerExpiry s) := by
  have htick (t : State) : EngineKept t (tickTimer t) := by
    unfold tickTimer
    simp only []
    split_ifs with hruns hexpires
    · intro hs
      have hst : t.engine.state = .awaiting := by
        simp only [timerRuns, Bool.and_eq_true, decide_eq_true_eq] at hruns
        exact hruns.1
      obtain ⟨hway, -⟩ := underWay_of_waiting hs (.inl hst)
      have hcounted (x : Stats) : UnderWay 0 ((t.setStats x).setEngine { t.engine with timer := ⟨0, false, false⟩ }) :=
        hway.congr rfl
      exact attemptEnd_quiet (hcounted _) t.engine.frameInProgress .noReply
    · exact .of_record rfl
    · exact .of_record rfl
  exact .ite (htick s) (.ite (.refl s) (.after_same (t := noteReplyTaken s) rfl (htick _)))

/-- The run-out of a guard whose retry is due begins the next attempt, or ends the exchange and enters IDLE (R104). -/
theorem retryOrEnd_ok {i : SlotNo} (h : UnderWay 0 s) : EngineOk (retryOrEnd i s) := by
  have hway : UnderWay 0 (FieldLine.retryTaken s) := h.congr rfl
  unfold retryOrEnd
  simp only []
  split
  · exact (exchangeEnd_rest hway i _).enterIdle rfl h.copy
  · exact beginAttempt_ok hway rfl i false

theorem guardRunOut_kept : EngineKept s (guardRunOut s) := by
  unfold guardRunOut
  simp only []
  split_ifs with hdue
  · intro hs
    have hrest := atRest_of_engineOk hs (.inl hdue.1)
    unfold runOut
    simp only []
    split_ifs with hwaits
    · exact EngineKept.of_record (s := s) rfl hs
    · have hcopy : s.engine.copyOutstanding = false := by
        simpa using (not_or.1 hwaits).1
      have hclaim := noCopyClaim hs hcopy
      split
      · next hi => exact retryOrEnd_ok _ ⟨by simp [hi], hcopy, hrest.frames, hclaim⟩
      · next hnot =>
        have hretry : s.engine.retryDue = false := by
          by_contra hr
          obtain ⟨i, hi⟩ := Option.isSome_iff_exists.1 (hrest.current.trans (by simp [hr]))
          exact hnot i (by simpa using hr) hi
        exact AtRest.enterIdle ⟨hrest.current, hrest.frames, hrest.claim⟩ hretry hcopy
  · exact .refl s

theorem lineReset_kept (h : HostId) : EngineKept s (lineReset h s) := by
  have haborts (hst : s.engine.state = .awaiting ∨ s.engine.state = .receiving) (frame : Bool) :
      EngineKept s (attemptEnd .aborted (enterQuiet frame (stopTimer s))) := by
    intro hs
    obtain ⟨hway, -⟩ := underWay_of_waiting hs hst
    exact attemptEnd_quiet (t := stopTimer s) (hway.congr rfl) _ _
  have hdecided : EngineKept s (s.setEngine { s.engine with decided := some .aborted }) := .of_record rfl
  unfold lineReset
  split
  · next hst => exact fun hs => (atRest_of_engineOk hs (.inr (.inl hst))).enterQuiet false
  · next hst => exact fun hs => (atRest_of_engineOk hs (.inl hst)).enterQuiet _
  · refine EngineKept.then_same (t := resetSending s) ?_ rfl
    exact .ite (hdecided.trans (cut_kept _)) hdecided
  · next hst => exact (haborts (.inl hst) false).then_same rfl
  · next hst => exact (haborts (.inr hst) true).then_same rfl
  · exact .of_record rfl

/-! ## The grant (R88) and the arbiter's service (R52, R102) -/

theorem schedulerRun_kept : EngineKept s (schedulerRun s) := by
  unfold schedulerRun
  split_ifs with hidle htaken
  · simp only []
    split
    · exact .of_record rfl
    · next c i _ =>
      intro hs
      have hrest := atRest_of_engineOk hs (.inr (.inl hidle))
      obtain ⟨-, hretry⟩ := ExchangeTable.idle_of_engineOk hs hidle
      obtain ⟨hpresent, -, -⟩ := id hs
      rw [hidle] at hpresent
      have hgranted : UnderWay 0 (ExchangeTable.granted c i (LineScheduler.runTaken s)) :=
        ⟨rfl, hpresent.2.2, hrest.frames, fun b n => noCopyClaim (s := s) hs hpresent.2.2 b n⟩
      exact beginAttempt_ok hgranted hretry i true
  · exact .refl s
  · exact .of_record rfl

/-- A copy is claimed only while one is outstanding, with the engine in QUIET or STUCK (R93, R102). -/
theorem copied_underWay {b : BufNo} {n : Nat} (hs : EngineOk s) (hc : s.engineClaim = some (.copy b n)) :
    (s.engine.state = .quiet ∨ s.engine.state = .stuck) ∧ UnderWay 0 (BufferPool.copied b n s) := by
  have hcopy : s.engine.copyOutstanding = true := hs.2.2.2 ⟨b, n, hc⟩
  have hst : s.engine.state = .quiet ∨ s.engine.state = .stuck := by
    obtain ⟨hpresent, -, -⟩ := hs
    cases hst : s.engine.state <;> rw [hst] at hpresent <;> simp [hcopy] at hpresent ⊢
  have hrest := atRest_of_engineOk hs (hst.imp_right .inr)
  exact ⟨hst, hrest.current.trans (by simp [hcopy]), rfl, hrest.frames, fun _ _ h => by cases h⟩

theorem arbiterServe_kept : EngineKept s (arbiterServe s) := by
  rcases arbiterServe_cases s with ⟨-, h⟩ | ⟨c, hc, -, h⟩ | ⟨k, c, -, hc, -, -, h⟩ | ⟨-, -, -, h⟩ <;> rw [h]
  · exact .refl s
  · cases c with
    | fetch b offset =>
      have hserved : EngineKept s { s with engineClaim := none } := .claim fun _ => by simp [hc]
      exact hserved.then_same rfl
    | copy b n =>
      intro hs
      obtain ⟨hst, hway⟩ := copied_underWay s hs hc
      exact attemptEnd_ok hway hst (copiedResult (BufferPool.copied b n s))
  · exact .of_record (record_serveClaim (takeClaim k c s) k c)
  · exact .refl s

end

end Sys2Proof.LineEngine
end

section
/-! The Line Engine's record in order (R93, R98) along every command and every step. -/

namespace Sys2Proof.LineEngine

open Sys2Proof.Machine

/-! ## Every command -/

/-- A command that goes on keeps the record in order. -/
def NextKept (s : State) (o : Host.Outcome State Fault Refusal) : Prop := ∀ t, o = .next t → EngineKept s t

section
variable {s : State}

theorem nextKept_next {t : State} (h : EngineKept s t) : NextKept s (.next t) := fun _ ht => Host.Outcome.next.inj ht ▸ h

/-- An access that is served, abandoned, or waits at its port. -/
theorem nextKept_served {c : Instr} {h : HostId} {act : State → State} (ha : EngineKept s (act s)) :
    NextKept s (served c h s act) := nextKept_next (.ite ha (.ite (.refl s) (.of_record rfl)))

theorem nextKept_internal {act : State → State} (ha : EngineKept s (act s)) : NextKept s (internal s act) :=
  nextKept_next (.ite (.refl s) ha)

/-- A part of a release, by what the block does in it. -/
theorem nextKept_releasePart {h : HostId} {part next : ReleasePart} {act : State → State} (ha : record (act s) = record s) :
    NextKept s (internal s (releasePart h part next act)) := nextKept_internal (.of_record (record_ite s ha rfl))

end

section
variable (h : HostId) (s : State)

theorem issue_kept (c : HostCommand) : EngineKept s (issue h c s) := by
  cases c with
  | lineReset => exact lineReset_kept s h
  | bufAlloc => exact .of_record (record_bufAlloc s h)
  | bufFree => exact .of_record (record_bufFree s h)
  | submit => exact .of_record (record_submit s h)
  | cancel => exact .of_record (record_cancel s h)
  | readExchange => exact .of_record (record_readExchange s h)
  | readStation => exact .of_record (record_readStation s h)
  | subscribe => exact .of_record (record_subscribe s h)
  | unsubscribe => exact .of_record (record_unsubscribe s h)
  | revive => exact .of_record (record_revive s h)
  | hold => exact .of_record (record_hold s h)
  | release => exact .of_record (record_release s h)
  | pollStart => exact .of_record (record_pollStart s h)
  | pollRetime => exact .of_record (record_pollRetime s h)
  | pollStop => exact .of_record (record_pollStop s h)
  | readPoll => exact .of_record (record_readPoll s h)
  | popCompletion => exact .of_record (record_popCompletion s h)
  | setSettings => exact .of_record (record_setSettings s h)
  | readSettings => exact .of_record rfl
  | readLine => exact .of_record rfl
  | clearStats => exact .of_record rfl

theorem commandWrite_kept (code : Byte) : EngineKept s (commandWrite h code s) := by
  unfold commandWrite
  split
  · exact .of_record rfl
  · exact issue_kept h s _

theorem portRegisterWrite_kept (location : BitVec 7) (value : Byte) :
    EngineKept s (portRegisterWrite h location value s) := by
  unfold portRegisterWrite locationWrite
  split_ifs
  · exact .of_record rfl
  · exact .of_record rfl
  · exact commandWrite_kept h s value
  · exact .of_record rfl
  · split
    · exact .of_record rfl
    · exact .refl s

end

/-- At power-on the engine is in QUIET without an exchange, and the transmit side RELEASED (R20, R93). -/
theorem reset_engineOk : EngineOk State.reset := AtRest.ok ⟨rfl, rfl, by simp [State.reset, freshEngine]⟩ (.inl rfl)

theorem powerOnReset_kept (s : State) : EngineKept s (powerOnReset s) :=
  fun _ => EngineKept.of_record (s := State.reset) rfl reset_engineOk

/-- Every command keeps the record in order. -/
theorem exec_kept (c : Instr) (s : State) : NextKept s (exec c s) := by
  cases c with
  | bufAlloc h => exact nextKept_served (issue_kept h s .bufAlloc)
  | bufFree h => exact nextKept_served (issue_kept h s .bufFree)
  | submit h => exact nextKept_served (issue_kept h s .submit)
  | cancel h => exact nextKept_served (issue_kept h s .cancel)
  | readExchange h => exact nextKept_served (issue_kept h s .readExchange)
  | readStation h => exact nextKept_served (issue_kept h s .readStation)
  | subscribe h => exact nextKept_served (issue_kept h s .subscribe)
  | unsubscribe h => exact nextKept_served (issue_kept h s .unsubscribe)
  | revive h => exact nextKept_served (issue_kept h s .revive)
  | hold h => exact nextKept_served (issue_kept h s .hold)
  | release h => exact nextKept_served (issue_kept h s .release)
  | pollStart h => exact nextKept_served (issue_kept h s .pollStart)
  | pollRetime h => exact nextKept_served (issue_kept h s .pollRetime)
  | pollStop h => exact nextKept_served (issue_kept h s .pollStop)
  | readPoll h => exact nextKept_served (issue_kept h s .readPoll)
  | popCompletion h => exact nextKept_served (issue_kept h s .popCompletion)
  | setSettings h => exact nextKept_served (issue_kept h s .setSettings)
  | readSettings h => exact nextKept_served (issue_kept h s .readSettings)
  | lineReset h => exact nextKept_served (issue_kept h s .lineReset)
  | readLine h => exact nextKept_served (issue_kept h s .readLine)
  | clearStats h => exact nextKept_served (issue_kept h s .clearStats)
  | badCommand h code => exact nextKept_served (commandWrite_kept h s code)
  | noticeCodeRead h => exact nextKept_served (.of_record (record_noticeCodeRead s h))
  | noticeMaskWrite h value => exact nextKept_served (.of_record rfl)
  | portStatusRead h => exact nextKept_served (.of_record rfl)
  | portRegisterWrite h location value => exact nextKept_served (portRegisterWrite_kept h s location value)
  | windowRead h offset => exact nextKept_served (.of_record rfl)
  | windowWrite h offset value => exact nextKept_served (.of_record rfl)
  | arbiterServe => exact nextKept_internal (arbiterServe_kept s)
  | powerOnReset => exact nextKept_next (powerOnReset_kept s)
  | hostPortResetAssert h => exact nextKept_next (.of_record (record_hostPortResetAssert s h))
  | hostPortResetRelease h => exact nextKept_next (.of_record (record_hostPortResetRelease s h))
  | xtabResetPart h => exact nextKept_releasePart (record_resetSlots s h)
  | bpoolResetPart h => exact nextKept_releasePart rfl
  | plstResetPart h => exact nextKept_releasePart (record_resetEntries s h)
  | stabResetPart h => exact nextKept_releasePart (record_resetStations s h)
  | cqResetPart h => exact nextKept_releasePart rfl
  | nctlResetPart h => exact nextKept_releasePart rfl
  | portResetPart h => exact nextKept_internal (.of_record (record_portResetPart s h))
  | tick => exact nextKept_internal (.of_record (record_tick s))
  | replyTimerExpiry => exact nextKept_internal (replyTimerExpiry_kept s)
  | leaseExpiry n => exact nextKept_internal (.of_record (record_leaseExpiry s n))
  | pollDue e => exact nextKept_internal (.of_record (record_pollDue s e))
  | guardRunOut => exact nextKept_internal (guardRunOut_kept s)
  | schedulerRun => exact nextKept_internal (schedulerRun_kept s)
  | openingBreakEnd => exact nextKept_internal (openingBreakEnd_kept s)
  | characterSent => exact nextKept_internal (characterSent_kept s)
  | echoCollision => exact nextKept_internal (echoCollision_kept s)
  | frameSent => exact nextKept_internal (frameSent_kept s)
  | cutBreakEnd => exact nextKept_internal (cutBreakEnd_kept s)
  | breakDetected => exact nextKept_internal (breakDetected_kept s)
  | breakEnd => exact nextKept_internal (breakEnd_kept s)
  | characterTaken value => exact nextKept_internal (characterTaken_kept s value)
  | framingError => exact nextKept_internal (framingError_kept s)
  | gapLimit => exact nextKept_internal (gapLimit_kept s)
  | stuckDetected => exact nextKept_internal (stuckDetected_kept s)
  | lineRecovered => exact nextKept_internal (lineRecovered_kept s)
  | halfBitSample => exact nextKept_internal (halfBitSample_kept s)
  | sentReport => exact nextKept_internal (sentReport_kept s)
  | collisionReport => exact nextKept_internal (collisionReport_kept s)
  | cutCompleteReport => exact nextKept_internal (cutCompleteReport_kept s)
  | frameStartReport => exact nextKept_internal (frameStartReport_kept s)
  | frameCompleteReport => exact nextKept_internal (frameCompleteReport_kept s)
  | badFrameReport => exact nextKept_internal (badFrameReport_kept s)
  | stuckReport => exact nextKept_internal (stuckReport_kept s)
  | recoveryReport => exact nextKept_internal (recoveryReport_kept s)
  | exchangeEndTaken => exact nextKept_internal (.of_record (record_exchangeEndTaken s))
  | exchangeEndReport => exact nextKept_internal (.of_record (record_exchangeEndReport s))
  | stationFlush => exact nextKept_internal (.of_record (record_stationFlush s))
  | instanceEnd => exact nextKept_internal (.of_record (record_instanceEnd s))
  | markToSpaceEdge => exact nextKept_next (markToSpaceEdge_kept s)
  | spaceToMarkEdge => exact nextKept_next (spaceToMarkEdge_kept s)
  | powerOnResetRelease => exact nextKept_next (.of_record (record_powerOnResetRelease s))

/-! ## Every step -/

section
variable {s t : State}

theorem serveWaiting_kept {h : HostId} {c : Instr} (ht : serveWaiting h c s = .next t) : EngineKept s t := by
  obtain ⟨u, hu⟩ := FieldLine.exec_goesOn c (setWaiting h [] s)
  obtain rfl : setWaiting h (s.port h).waiting.tail u = t := by simpa [serveWaiting, hu] using ht
  have hserved : EngineKept (setWaiting h [] s) u := exec_kept c _ u hu
  exact .after_same (t := setWaiting h [] s) rfl (hserved.then_same rfl)

theorem idleStep_kept (ht : idleStep s = .next t) : EngineKept s t := by
  unfold idleStep at ht
  split at ht
  · exact exec_kept _ s t ht
  · split at ht
    · exact serveWaiting_kept ht
    · obtain rfl := Host.Outcome.next.inj ht
      exact .of_record (record_clockPeriod s)

end

/-- Settles O9: the command at the front of the queue, or what the part does of itself. -/
theorem engineRecordStaysInOrder : Obligations.EngineRecordStaysInOrder := by
  intro s t hs ht
  unfold step at ht
  split at ht
  · exact idleStep_kept ht hs
  · next c rest _ =>
    have htaken : EngineOk { s with pending := rest } := hs
    exact exec_kept c _ t ht htaken

end Sys2Proof.LineEngine
end

section
/-! The reports that the Line Engine takes while it runs an exchange (R94 to R102, R109, R112): a frame sent or cut, a frame that starts, a whole frame, a bad one. -/

namespace Sys2Proof.LineEngine

open Sys2Proof.Machine

/-! ## What the report commands do with the first report given -/

section
variable {s : State} {rest : List Report} (hp : s.porst = false)
include hp

theorem exec_sentReport (hr : s.lif.reports = .sent :: rest) :
    exec .sentReport s = .next (takeSent (FieldLine.reportTaken rest s)) := by
  rw [show exec .sentReport s = .next (sentReport s) from internal_spec.1 hp]
  simp [sentReport, withReport, hr, FieldLine.reportTaken]

theorem exec_collisionReport (hr : s.lif.reports = .collision :: rest) :
    exec .collisionReport s = .next (takeCollision (FieldLine.reportTaken rest s)) := by
  rw [show exec .collisionReport s = .next (collisionReport s) from internal_spec.1 hp]
  simp [collisionReport, withReport, hr, FieldLine.reportTaken]

theorem exec_cutCompleteReport (hr : s.lif.reports = .cutComplete :: rest) :
    exec .cutCompleteReport s = .next (takeCutComplete (FieldLine.reportTaken rest s)) := by
  rw [show exec .cutCompleteReport s = .next (cutCompleteReport s) from internal_spec.1 hp]
  simp [cutCompleteReport, withReport, hr, FieldLine.reportTaken]

theorem exec_frameStartReport (hr : s.lif.reports = .frameStart :: rest) :
    exec .frameStartReport s = .next (takeFrameStart (FieldLine.reportTaken rest s)) := by
  rw [show exec .frameStartReport s = .next (frameStartReport s) from internal_spec.1 hp]
  simp [frameStartReport, withReport, hr, FieldLine.reportTaken]

theorem exec_frameCompleteReport {f : FrameInfo} (hr : s.lif.reports = .frameComplete f :: rest) :
    exec .frameCompleteReport s = .next (takeFrameComplete f (FieldLine.reportTaken rest s)) := by
  rw [show exec .frameCompleteReport s = .next (frameCompleteReport s) from internal_spec.1 hp]
  simp [frameCompleteReport, withReport, hr, FieldLine.reportTaken]

theorem exec_badFrameReport {reason : BadReason} (hr : s.lif.reports = .badFrame reason :: rest) :
    exec .badFrameReport s = .next (takeBadFrame reason (FieldLine.reportTaken rest s)) := by
  rw [show exec .badFrameReport s = .next (badFrameReport s) from internal_spec.1 hp]
  simp [badFrameReport, withReport, hr, FieldLine.reportTaken]

end

/-! ## The end of a sending (R97, R98, R112) -/

theorem bump_below {c : Word16} (hc : c.toNat < 65535) : (bump c).toNat = c.toNat + 1 := by
  have hne : c ≠ 0xFFFF := by
    rintro rfl
    simp at hc
  rw [bump, if_neg hne, BitVec.toNat_add_of_lt]
  · rfl
  · exact Nat.succ_lt_succ hc

theorem bump_full {c : Word16} (hc : c.toNat = 65535) : bump c = c := if_pos (BitVec.eq_of_toNat_eq hc)

section
variable {s : State} {i : SlotNo}

theorem takeSent_sending (hst : s.engine.state = .sending) (hi : s.engine.current = some i) :
    takeSent s = sentInSending i s := by
  simp only [takeSent, hst, hi]

theorem sentInSending_decided {d : Decided} (hd : s.engine.decided = some d) :
    sentInSending i s =
      attemptEnd (decidedResult d) (enterQuiet s.engine.frameInProgress (ExchangeTable.sentCounted i s)) := by
  unfold sentInSending
  simp only []
  split
  · next h =>
    cases hd.symm.trans h
    rfl
  · next h => cases hd.symm.trans h

variable (hd : s.engine.decided = none)
include hd

/-- With no decided result a broadcast is done, and any other exchange waits for its reply (R97). -/
theorem sentInSending_undecided : sentInSending i s =
    if (s.slot i).station = 0 then
      attemptEnd .replyOk (enterQuiet s.engine.frameInProgress (ExchangeTable.sentCounted i s))
    else (ExchangeTable.sentCounted i s).setEngine
      { s.engine with state := .awaiting, timer := ⟨(s.slot i).replyTimeout, true, false⟩ } := by
  unfold sentInSending
  simp only []
  split
  · next h => cases hd.symm.trans h
  · simp only [currentBroadcast, decide_eq_true_eq]
    rfl

theorem sentInSending_broadcast (hx : (s.slot i).station = 0) : sentInSending i s =
    attemptEnd .replyOk (enterQuiet s.engine.frameInProgress (ExchangeTable.sentCounted i s)) :=
  (sentInSending_undecided hd).trans (if_pos hx)

theorem sentInSending_awaits (hx : (s.slot i).station ≠ 0) : sentInSending i s =
    (ExchangeTable.sentCounted i s).setEngine
      { s.engine with state := .awaiting, timer := ⟨(s.slot i).replyTimeout, true, false⟩ } :=
  (sentInSending_undecided hd).trans (if_neg hx)

end

section
variable {s : State}

/-- COLLISION is decided unless ABORTED is (R98). -/
theorem takeCollision_sending (hst : s.engine.state = .sending) :
    takeCollision s = latchAll .lineFault ((s.setStats { s.stats with collisions := bump s.stats.collisions }).setEngine
      { s.engine with decided := if s.engine.decided = some .aborted then some .aborted else some .collision }) := by
  have hdecided : some (s.engine.decided.getD .collision) =
      if s.engine.decided = some .aborted then some .aborted else some .collision := by
    rcases s.engine.decided with _ | _ | _ <;> rfl
  rw [takeCollision, if_pos hst, hdecided]

theorem takeCutComplete_decided {d : Decided} (hst : s.engine.state = .sending) (hd : s.engine.decided = some d) :
    takeCutComplete s = attemptEnd (decidedResult d) (enterQuiet s.engine.frameInProgress s) := by
  rw [takeCutComplete, if_pos hst, hd]
  rfl

end

/-- Settles O38: the counters, the sent report by the decided result, then the collision's and the cut's. -/
theorem sendingEndsByItsReports : Obligations.SendingEndsByItsReports := by
  refine ⟨fun c => ⟨bump_below, bump_full⟩, fun i rest s hp hr hst hi => ?_, fun rest s hp hst => ⟨fun hr => ?_,
    fun i d hr hi hd => ?_⟩⟩
  · intro u
    have hsent : exec .sentReport s = .next (sentInSending i (FieldLine.reportTaken rest s)) := by
      rw [exec_sentReport hp hr, takeSent_sending (s := FieldLine.reportTaken rest s) hst hi]
    rw [hsent]
    refine ⟨fun hx hd => ?_, fun hx hd => ?_, fun hd => ?_⟩
    · rw [sentInSending_awaits (s := FieldLine.reportTaken rest s) hd hx]
      rfl
    · rw [sentInSending_broadcast (s := FieldLine.reportTaken rest s) hd hx]
      exact ⟨_, _, enterQuiet_spec _ u, attemptEnd_spec hi, rfl⟩
    · rw [sentInSending_decided (s := FieldLine.reportTaken rest s) hd]
      exact ⟨_, _, enterQuiet_spec _ u, attemptEnd_spec hi, rfl⟩
  · rw [exec_collisionReport hp hr, takeCollision_sending (s := FieldLine.reportTaken rest s) hst]
    rfl
  · rw [exec_cutCompleteReport hp hr, takeCutComplete_decided (s := FieldLine.reportTaken rest s) hst hd]
    cases d <;> exact ⟨_, _, enterQuiet_spec _ _, attemptEnd_spec hi, rfl⟩

/-! ## A frame that starts (R94, R95, R99) -/

section
variable {s : State}

theorem takeFrameStart_quiet (hst : s.engine.state = .quiet) : takeFrameStart s = s.setEngine
    { s.engine with frameInProgress := true, guard := { s.engine.guard with running := false } } := by
  simp only [takeFrameStart, hst, Guard.stopped]

theorem takeFrameStart_idle (hst : s.engine.state = .idle) : takeFrameStart s = enterQuiet true s := by
  simp only [takeFrameStart, hst]

theorem takeFrameStart_awaiting (hst : s.engine.state = .awaiting) : takeFrameStart s = s.setEngine
    { s.engine with
      state := .receiving, frameInProgress := true
      timer := { s.engine.timer with running := false, tickWaiting := false } } := by
  simp only [takeFrameStart, hst, ReplyTimer.stopped]

theorem takeFrameStart_sending (hst : s.engine.state = .sending) : takeFrameStart s = s := by
  simp only [takeFrameStart, hst]

end

/-- Settles O39: the report by each of the four states. -/
theorem frameStartByEngineState : Obligations.FrameStartByEngineState := by
  intro rest s hp hr u
  rw [exec_frameStartReport hp hr]
  refine ⟨fun hst => ?_, fun hst => ⟨_, enterQuiet_spec true u, ?_⟩, fun hst => ?_, fun hst => ?_⟩
  · rw [takeFrameStart_quiet (s := FieldLine.reportTaken rest s) hst]
    rfl
  · rw [takeFrameStart_idle (s := FieldLine.reportTaken rest s) hst]
    rfl
  · rw [takeFrameStart_awaiting (s := FieldLine.reportTaken rest s) hst]
    rfl
  · rw [takeFrameStart_sending (s := FieldLine.reportTaken rest s) hst]
    rfl

/-! ## A whole frame in RECEIVING, by its class (R101, R102) -/

section
variable {f : FrameInfo} {station : StationAddr} {sequence : Bool}

theorem classify_stray (h : f.fromStation = false ∨ f.station ≠ station) : classify f station sequence = .stray := by
  refine if_pos ?_
  simpa using h

variable (hfrom : f.fromStation = true) (hstation : f.station = station)
include hfrom hstation

theorem classify_stale (hseq : f.sequence ≠ sequence) : classify f station sequence = .stale := by
  simp [classify, hfrom, hstation, hseq]

theorem classify_accepted (hseq : f.sequence = sequence) : classify f station sequence = .accepted := by
  simp [classify, hfrom, hstation, hseq]

end

section
variable {i : SlotNo} {f : FrameInfo} {s : State}

theorem completeInReceiving_stray (h : f.fromStation = false ∨ f.station ≠ (s.slot i).station) :
    completeInReceiving i f s = discardFrame { s.stats with strayFrames := bump s.stats.strayFrames } s := by
  rw [completeInReceiving, classify_stray h]

variable (hfrom : f.fromStation = true) (hstation : f.station = (s.slot i).station)
include hfrom hstation

theorem completeInReceiving_stale (hseq : f.sequence ≠ s.engine.seqInUse) :
    completeInReceiving i f s = discardFrame { s.stats with staleFrames := bump s.stats.staleFrames } s := by
  rw [completeInReceiving, classify_stale hfrom hstation hseq]

theorem completeInReceiving_accepted (hseq : f.sequence = s.engine.seqInUse) :
    completeInReceiving i f s = acceptFrame i f s := by
  rw [completeInReceiving, classify_accepted hfrom hstation hseq]

end

theorem takeFrameComplete_receiving {i : SlotNo} {f : FrameInfo} {s : State} (hst : s.engine.state = .receiving)
    (hi : s.engine.current = some i) : takeFrameComplete f s = completeInReceiving i f s := by
  simp only [takeFrameComplete, hst, hi]

/-- What is kept of an accepted frame, its payload dropped when there is one and no buffer for it (R102). -/
theorem keptReply_eq (f : FrameInfo) (b : Option BufNo) :
    keptReply f b = ⟨f.length, f.function, f.attention, f.check, decide (b = none ∧ f.length ≠ 0)⟩ := by
  cases b <;> simp [keptReply]

/-- Settles O40: stray, stale, and an accepted frame with or without a copy. -/
theorem frameCompleteByClass : Obligations.FrameCompleteByClass := by
  intro i f rest s hp hr hst hi u back
  have hcomplete : exec .frameCompleteReport s = .next (completeInReceiving i f (FieldLine.reportTaken rest s)) := by
    rw [exec_frameCompleteReport hp hr, takeFrameComplete_receiving (s := FieldLine.reportTaken rest s) hst hi]
  rw [hcomplete]
  refine ⟨fun hstray => ?_, fun hfrom hstation hseq => ?_, fun hfrom hstation hseq => ?_⟩
  · rw [completeInReceiving_stray (s := FieldLine.reportTaken rest s) hstray]
    rfl
  · rw [completeInReceiving_stale (s := FieldLine.reportTaken rest s) hfrom hstation hseq]
    rfl
  · rw [completeInReceiving_accepted (s := FieldLine.reportTaken rest s) hfrom hstation hseq]
    refine ⟨_, BufferPool.replyKept i f (FieldLine.reportTaken rest s), enterQuiet_spec false _, ?_, fun b hb hf => ?_,
      fun h => ⟨_, attemptEnd_spec hi, ?_⟩⟩
    · rw [BufferPool.replyKept, keptReply_eq]
      rfl
    · rw [BufferPool.acceptFrame_claims (s := FieldLine.reportTaken rest s) hb hf]
      rfl
    · rw [BufferPool.acceptFrame_ends (s := FieldLine.reportTaken rest s) h]
      rfl

/-! ## A bad frame, and the end of a frame in QUIET (R94, R100, R109) -/

/-- Reasons BREAK and GAP also count as a cut-off reply (R100, R109). -/
theorem countCutOff_eq (reason : BadReason) (x : Stats) : countCutOff reason x =
    { x with cutOffReplies := if reason = .brk ∨ reason = .gap then bump x.cutOffReplies else x.cutOffReplies } := by
  cases reason <;> rfl

theorem strayEnd_quiet {s : State} (hst : s.engine.state = .quiet) (count : Stats → Stats) : strayEnd count s =
    enterQuiet false (s.setStats (count { s.stats with strayFrames := bump s.stats.strayFrames })) := by
  simp [strayEnd, hst]

section
variable {s : State}

theorem takeBadFrame_receiving (hst : s.engine.state = .receiving) (reason : BadReason) :
    takeBadFrame reason s = badInReceiving reason s := by
  simp only [takeBadFrame, hst]

theorem takeBadFrame_quiet (hst : s.engine.state = .quiet) (reason : BadReason) :
    takeBadFrame reason s = strayEnd (countCutOff reason) s := by
  simp only [takeBadFrame, hst]

theorem takeFrameComplete_quiet (hst : s.engine.state = .quiet) (f : FrameInfo) :
    takeFrameComplete f s = strayEnd id s := by
  simp only [takeFrameComplete, hst]

end

/-- Settles O41: a bad frame by the engine's state, then a whole one in QUIET. -/
theorem badFramesAndStrays : Obligations.BadFramesAndStrays := by
  intro rest s hp u
  refine ⟨fun reason hr => ?_, fun f hr hst => ?_⟩
  · rw [exec_badFrameReport hp hr]
    refine ⟨fun i hst hi => ?_, fun hst => ?_⟩
    · rw [takeBadFrame_receiving (s := FieldLine.reportTaken rest s) hst, badInReceiving, countCutOff_eq]
      exact ⟨_, _, enterQuiet_spec false _, attemptEnd_spec hi, rfl⟩
    · rw [takeBadFrame_quiet (s := FieldLine.reportTaken rest s) hst,
        strayEnd_quiet (s := FieldLine.reportTaken rest s) hst, countCutOff_eq]
      exact ⟨_, enterQuiet_spec false _, rfl⟩
  · rw [exec_frameCompleteReport hp hr, takeFrameComplete_quiet (s := FieldLine.reportTaken rest s) hst,
      strayEnd_quiet (s := FieldLine.reportTaken rest s) hst]
    exact ⟨_, enterQuiet_spec false _, rfl⟩

end Sys2Proof.LineEngine
end

section
/-! LINE_RESET by the engine's state (R110), and the tick at every millisecond timer with its claims taken ahead (R95, R99, R119, R132, R165). -/

namespace Sys2Proof.LineEngine

open Sys2Proof.Machine

/-! ## LINE_RESET (R110) -/

/-- The engine with ABORTED decided for its attempt. -/
def abortDecided (s : State) : State := s.setEngine { s.engine with decided := some .aborted }

section
variable {s : State}

theorem cut_nothing (ht : s.lif.tx = .released ∨ s.lif.tx = .cutting) : cut s = s := by
  refine if_neg ?_
  rcases ht with ht | ht <;> simp [ht]

theorem resetSending_decided (hd : s.engine.decided ≠ none) : resetSending s = abortDecided s := if_neg hd

theorem resetSending_undecided (hd : s.engine.decided = none) : resetSending s = cut (abortDecided s) := if_pos hd

variable (h : HostId)

theorem lineReset_idle (hst : s.engine.state = .idle) : lineReset h s = answer h .ok (enterQuiet false s) := by
  simp only [lineReset, hst]

theorem lineReset_quiet (hst : s.engine.state = .quiet) :
    lineReset h s = answer h .ok (enterQuiet s.engine.frameInProgress s) := by
  simp only [lineReset, hst]

theorem lineReset_sending (hst : s.engine.state = .sending) : lineReset h s = answer h .ok (resetSending s) := by
  simp only [lineReset, hst]

theorem lineReset_awaiting (hst : s.engine.state = .awaiting) :
    lineReset h s = answer h .ok (attemptEnd .aborted (enterQuiet false (stopTimer s))) := by
  simp only [lineReset, hst]

theorem lineReset_receiving (hst : s.engine.state = .receiving) :
    lineReset h s = answer h .ok (attemptEnd .aborted (enterQuiet true (stopTimer s))) := by
  simp only [lineReset, hst]

theorem lineReset_stuck (hst : s.engine.state = .stuck) : lineReset h s = answer h .notNow s := by
  simp only [lineReset, hst]

end

/-- Settles O43: the rows of R110's table, SENDING by the decided result and the transmit side. -/
theorem lineResetByEngineState : Obligations.LineResetByEngineState := by
  intro h s hs stopped aborted
  rw [show exec (.lineReset h) s = .next (lineReset h s) from served_next hs]
  refine ⟨fun hst => ?_, fun hst => ?_, fun hst hd => ?_, fun hst hd => ⟨fun ht => ?_, fun ht => ?_⟩, fun i hst hi => ?_,
    fun i hst hi => ?_, fun hst => ?_⟩
  · rw [lineReset_idle h hst]
    exact ⟨_, enterQuiet_spec false s, rfl⟩
  · rw [lineReset_quiet h hst]
    exact ⟨_, enterQuiet_spec _ s, rfl⟩
  · rw [lineReset_sending h hst, resetSending_decided hd]
    rfl
  · rw [lineReset_sending h hst, resetSending_undecided hd, cut_nothing (s := abortDecided s) ht]
    rfl
  · rw [lineReset_sending h hst, resetSending_undecided hd]
    exact ⟨_, cut_spec (s := abortDecided s) ht, rfl⟩
  · rw [lineReset_awaiting h hst]
    exact ⟨_, _, enterQuiet_spec false stopped, attemptEnd_spec hi, rfl⟩
  · rw [lineReset_receiving h hst]
    exact ⟨_, _, enterQuiet_spec true stopped, attemptEnd_spec hi, rfl⟩
  · rw [lineReset_stuck h hst]

/-! ## TICK (R165) -/

/-- No tick's claim waits at a timer. -/
theorem tickWaits_false_iff (s : State) : tickWaits s = false ↔ s.engine.timer.tickWaiting = false
    ∧ (∀ n k, (s.station n).hold = some k → k.tickWaiting = false) ∧ ∀ e, (s.entry e).tickWaiting = false := by
  have hstations (n : StationNo) : (s.station n).tickWaits = false ↔ ∀ k, (s.station n).hold = some k → k.tickWaiting = false := by
    unfold Station.tickWaits
    cases (s.station n).hold <;> simp
  simp only [← hstations]
  simp [tickWaits, tfind_eq_none, State.station, State.entry, and_assoc]

/-- The state after a tick at every timer at which its claim has not been taken ahead. -/
def ticked (s : State) : State :=
  { s with
    engine := (tickEngine s).engine
    stations := tmap (fun n x => if tget s.taken.leases n then x else { x with hold := x.hold.map Hold.ticked }) s.stations
    entries := tmap (fun e x => if tget s.taken.entries e then x else x.ticked) s.entries
    prescaler := s.prescaler.next
    taken := noneTaken }

section
variable (s : State)

theorem tickEngine_eq : tickEngine s = s.setEngine (tickEngine s).engine := by
  unfold tickEngine
  split <;> rfl

theorem tick_eq (h : tickWaits s = false) : tick s = ticked s := by
  rw [tick, if_neg (by simp [h]), tickEngine_eq]
  rfl

theorem ticked_station (n : StationNo) : (ticked s).station n =
    if tget s.taken.leases n then s.station n else { s.station n with hold := (s.station n).hold.map Hold.ticked } := by
  simp only [ticked, State.station, tget_tmap]

theorem ticked_entry (e : EntryNo) : (ticked s).entry e =
    if tget s.taken.entries e then s.entry e else (s.entry e).ticked := by
  simp only [ticked, State.entry, tget_tmap]

end

section
variable {s : State}

/-- The reply timer stands outside AWAITING, while stopped, and where its claim has been taken. -/
theorem ticked_engine_stands (h : s.engine.state ≠ .awaiting ∨ s.engine.timer.running = false ∨ s.taken.reply = true) :
    (ticked s).engine = s.engine := by
  change (tickEngine s).engine = s.engine
  unfold tickEngine
  split_ifs with htaken
  · have hstopped : s.engine.timer.running = false := by
      rcases h with h | h | h
      · exact absurd htaken.1 h
      · exact h
      · exact absurd h htaken.2
    simp [ReplyTimer.ticked, hstopped]
  · rfl

theorem ticked_engine_runs (hst : s.engine.state = .awaiting) (hr : s.engine.timer.running = true)
    (ht : s.taken.reply = false) : (ticked s).engine = { s.engine with
      timer := if 1 < s.engine.timer.left then { s.engine.timer with left := s.engine.timer.left - 1 }
        else { s.engine.timer with tickWaiting := true } } := by
  change (tickEngine s).engine = _
  rw [tickEngine, if_pos ⟨hst, by simp [ht]⟩]
  have htimer : s.engine.timer.ticked = if 1 < s.engine.timer.left then { s.engine.timer with left := s.engine.timer.left - 1 }
      else { s.engine.timer with tickWaiting := true } := by
    simp only [ReplyTimer.ticked, hr, ← not_lt (a := 1), ite_not]
    rfl
  rw [htimer]
  rfl

theorem ticked_hold (k : Hold) : k.ticked =
    if 1 < k.lease.toNat then { k with lease := k.lease - 1 } else { k with tickWaiting := true } := by
  have hlast : k.lease ≤ 1 ↔ ¬ 1 < k.lease.toNat := by
    rw [BitVec.le_def, not_lt]
    rfl
  simp only [Hold.ticked, hlast, ite_not]

theorem ticked_armed {x : PollEntry} (hx : x.state = .armed) : x.ticked =
    if 1 < x.countdown.toNat then { x with countdown := x.countdown - 1 } else { x with tickWaiting := true } := by
  have hlast : x.countdown ≤ 1 ↔ ¬ 1 < x.countdown.toNat := by
    rw [BitVec.le_def, not_lt]
    rfl
  simp only [PollEntry.ticked, hx, ne_eq, not_true_eq_false, if_false, hlast, ite_not]

theorem ticked_unarmed {x : PollEntry} (hx : x.state ≠ .armed) : x.ticked = x := if_pos hx

/-! ## The coming tick's claim at the reply timer (R99) -/

theorem replyTimerExpiry_again (hw : s.engine.timer.tickWaiting = false) (ht : s.taken.reply = true) :
    replyTimerExpiry s = s := by
  simp [replyTimerExpiry, hw, ht]

theorem replyTimerExpiry_ahead (hw : s.engine.timer.tickWaiting = false) (ht : s.taken.reply = false) :
    replyTimerExpiry s = tickTimer (noteReplyTaken s) := by
  simp [replyTimerExpiry, hw, ht]

theorem timerRuns_iff (s : State) : timerRuns s = true ↔ s.engine.state = .awaiting ∧ s.engine.timer.running = true := by
  simp [timerRuns]

theorem tickTimer_stands (hr : s.engine.state ≠ .awaiting ∨ s.engine.timer.running = false)
    (hw : s.engine.timer.tickWaiting = false) : tickTimer s = s := by
  have hstands : ¬ timerRuns s = true := by
    rw [timerRuns_iff]
    rintro ⟨hst, hrun⟩
    rcases hr with hr | hr
    · exact hr hst
    · simp [hr] at hrun
  simp only [tickTimer, if_neg hstands, ← hw]
  rfl

section
variable (hst : s.engine.state = .awaiting) (hr : s.engine.timer.running = true)
include hst hr

theorem tickTimer_lowers (hw : s.engine.timer.tickWaiting = false) (hl : 1 < s.engine.timer.left) :
    tickTimer s = s.setEngine { s.engine with timer := { s.engine.timer with left := s.engine.timer.left - 1 } } := by
  have hmore : ¬ (s.engine.timer.tickWaiting = true ∨ s.engine.timer.left ≤ 1) := by
    simpa [hw] using hl
  simp only [tickTimer, if_pos ((timerRuns_iff s).2 ⟨hst, hr⟩), if_neg hmore]

theorem tickTimer_last (hl : s.engine.timer.left ≤ 1) : tickTimer s = noReply s := by
  simp only [tickTimer, if_pos ((timerRuns_iff s).2 ⟨hst, hr⟩), if_pos (.inr hl : _ ∨ _)]

end

/-! ## The coming tick's claim at a lease (R119, R120) -/

section
variable {n : StationNo}

theorem leaseExpiry_noHold (hk : (s.station n).hold = none) : leaseExpiry n s = noteLeaseTaken n s := by
  simp only [leaseExpiry, hk]

theorem leaseExpiry_again (hw : ∀ k, (s.station n).hold = some k → k.tickWaiting = false)
    (ht : tget s.taken.leases n = true) : leaseExpiry n s = s := by
  cases hk : (s.station n).hold with
  | none =>
    rw [leaseExpiry_noHold hk, noteLeaseTaken, ← ht, tput_tget]
    rfl
  | some k => simp [leaseExpiry, hk, hw k hk, ht]

theorem leaseExpiry_ahead {k : Hold} (hk : (s.station n).hold = some k) (hw : k.tickWaiting = false)
    (ht : tget s.taken.leases n = false) : leaseExpiry n s = tickLease n (noteLeaseTaken n s) := by
  simp [leaseExpiry, hk, hw, ht]

theorem tickLease_lowers {k : Hold} (hk : (s.station n).hold = some k) (hl : 1 < k.lease.toNat) :
    tickLease n s = s.setStation n { s.station n with hold := some { k with lease := k.lease - 1 } } := by
  have hmore : ¬ k.lease ≤ 1 := fun h => Nat.not_le.2 hl h
  simp only [tickLease, hk, if_neg hmore]

theorem tickLease_last {k : Hold} (hk : (s.station n).hold = some k) (hl : k.lease.toNat ≤ 1) :
    tickLease n s = handOver n (latch k.holder .holdExpired s) := by
  have hlast : k.lease ≤ 1 := hl
  simp only [tickLease, hk, if_pos hlast, expire]

end

/-! ## The coming tick's claim at a countdown (R132, R133) -/

section
variable {e : EntryNo} (hw : (s.entry e).tickWaiting = false)
include hw

theorem pollDue_again (ht : tget s.taken.entries e = true) : pollDue e s = s := by
  simp [pollDue, hw, ht]

theorem pollDue_ahead (ht : tget s.taken.entries e = false) : pollDue e s = tickEntry e (noteEntryTaken e s) := by
  simp [pollDue, hw, ht]

theorem tickEntry_unarmed (hst : (s.entry e).state ≠ .armed) : tickEntry e s = s := by
  simp only [tickEntry, if_neg hst, ← hw]
  exact State.setEntry_self s e

/-- A tick at an ARMED countdown lowers it, and at 0 the entry falls due. -/
theorem tickEntry_armed (hst : (s.entry e).state = .armed) : tickEntry e s =
    if (s.entry e).countdown - 1 = 0 then due e (s.setEntry e { s.entry e with countdown := (s.entry e).countdown - 1 })
    else s.setEntry e { s.entry e with countdown := (s.entry e).countdown - 1 } := by
  simp only [tickEntry, if_pos hst, ← hw]

theorem tickEntry_lowers (hst : (s.entry e).state = .armed) (hc : (s.entry e).countdown ≠ 1) :
    tickEntry e s = s.setEntry e { s.entry e with countdown := (s.entry e).countdown - 1 } := by
  rw [tickEntry_armed hw hst, if_neg (sub_ne_zero.2 hc)]

theorem tickEntry_last (hst : (s.entry e).state = .armed) (hc : (s.entry e).countdown = 1) :
    tickEntry e s = due e (s.setEntry e { s.entry e with countdown := 0 }) := by
  rw [tickEntry_armed hw hst, hc, sub_self, if_pos rfl]

end

end

/-- Settles O52: the tick at every timer, then its claim taken ahead at the reply timer, at a lease and at a countdown. -/
theorem tickLowersEveryTimer : Obligations.TickLowersEveryTimer := by
  refine ⟨fun s hp hreply hleases hentries => ⟨ticked s, ?_, rfl, ticked_engine_stands, ticked_engine_runs, fun n h => ?_,
      fun n k hk ht => ?_, fun e h => ?_, fun e hst ht => ?_, rfl, fun n => tget_replicate _ n, fun e => tget_replicate _ e,
      rfl⟩, fun s hp hw => ?_, fun n s hp hw => ?_, fun e s hp hw => ?_⟩
  · rw [show exec .tick s = .next (tick s) from internal_spec.1 hp,
      tick_eq s ((tickWaits_false_iff s).2 ⟨hreply, hleases, hentries⟩)]
  · rw [ticked_station]
    rcases h with h | h
    · rw [h, Option.map_none, ← h]
      exact ite_self _
    · rw [if_pos h]
  · rw [ticked_station, ht, hk, Option.map_some, ticked_hold]
    rfl
  · rw [ticked_entry]
    rcases h with h | h
    · rw [ticked_unarmed h, ite_self]
    · rw [if_pos h]
  · rw [ticked_entry, ht, ticked_armed hst]
    rfl
  · rw [show exec .replyTimerExpiry s = .next (replyTimerExpiry s) from internal_spec.1 hp]
    refine ⟨fun ht => by rw [replyTimerExpiry_again hw ht], fun ht => ?_⟩
    rw [replyTimerExpiry_ahead hw ht]
    refine ⟨fun hr => ?_, fun hst hr hl => ?_, fun i hst hr hl hi => ?_⟩
    · rw [tickTimer_stands (s := noteReplyTaken s) hr hw]
      rfl
    · rw [tickTimer_lowers (s := noteReplyTaken s) hst hr hw hl]
      rfl
    · rw [tickTimer_last (s := noteReplyTaken s) hst hr hl]
      exact ⟨_, _, enterQuiet_spec _ _, attemptEnd_spec hi, rfl⟩
  · rw [show exec (.leaseExpiry n) s = .next (leaseExpiry n s) from internal_spec.1 hp]
    refine ⟨fun ht => by rw [leaseExpiry_again hw ht], fun ht => ⟨fun hk => by rw [leaseExpiry_noHold hk]; rfl,
      fun k hk => ?_⟩⟩
    rw [leaseExpiry_ahead hk (hw k hk) ht]
    refine ⟨fun hl => ?_, fun hl => ⟨_, handOver_spec n _, ?_⟩⟩
    · rw [tickLease_lowers (s := noteLeaseTaken n s) hk hl]
      rfl
    · rw [tickLease_last (s := noteLeaseTaken n s) hk hl]
      rfl
  · rw [show exec (.pollDue e) s = .next (pollDue e s) from internal_spec.1 hp]
    refine ⟨fun ht => by rw [pollDue_again hw ht], fun ht => ?_⟩
    rw [pollDue_ahead hw ht]
    refine ⟨fun hst => ?_, fun hst => ⟨fun hc => ?_, fun hc => ⟨_, due_spec e _, ?_⟩⟩⟩
    · rw [tickEntry_unarmed (s := noteEntryTaken e s) hw hst]
      rfl
    · rw [tickEntry_lowers (s := noteEntryTaken e s) hw hst hc]
      rfl
    · rw [tickEntry_last (s := noteEntryTaken e s) hw hst hc]
      rfl

end Sys2Proof.LineEngine
end

section
/-! Station holds (R115 to R121): HOLD and RELEASE case by case, and the expiry of a lease. -/

namespace Sys2Proof.StationHolds

open Sys2Proof.Machine

/-! ## Holders and waiters (R115) -/

/-- A host's held count is the number of stations whose holder it is. -/
theorem heldCount_eq (h : HostId) (s : State) : heldCount h s
    = ((List.finRange 31).filter fun n => decide ((s.station n).hold.map Hold.holder = some h)).length := by
  have hheld (n : StationNo) :
      heldBy h (tget s.stations n) = decide ((s.station n).hold.map Hold.holder = some h) := by
    rw [show tget s.stations n = s.station n from rfl, heldBy]
    cases (s.station n).hold <;> simp
  rw [heldCount, tcount, List.countP_eq_length_filter]
  exact congrArg List.length (List.filter_congr fun n _ => hheld n)

theorem waits_iff (h : HostId) (ws : List Waiter) : waits h ws = true ↔ ∃ w ∈ ws, w.host = h := by simp [waits]

theorem waits_false_iff (h : HostId) (ws : List Waiter) : waits h ws = false ↔ ∀ w ∈ ws, w.host ≠ h := by simp [waits]

theorem holdPosition_holder {h : HostId} {k : Hold} (hk : k.holder = h) : holdPosition h k = 0 := if_pos hk

/-- A waiter's position is that of its first entry, counted from 1 (R116). -/
theorem holdPosition_waiter {h : HostId} {k : Hold} {before after : List Waiter} {w : Waiter} (hk : k.holder ≠ h)
    (hsplit : k.waiters = before ++ w :: after) (hw : w.host = h) (hbefore : ∀ v ∈ before, v.host ≠ h) :
    holdPosition h k = before.length + 1 := by
  have hnone : before.findIdx (fun v => decide (v.host = h)) = before.length :=
    List.findIdx_eq_length.2 fun v hv => decide_eq_false (hbefore v hv)
  rw [holdPosition, if_neg hk, hsplit, List.findIdx_append, hnone, if_neg (lt_irrefl _), List.findIdx_cons]
  simp [hw]

theorem answerHold_holder {h : HostId} {k : Hold} (r : ResultCode) (s : State) (hk : k.holder = h) :
    answerHold h r k s = answerWith h r 3 [natByte h.val, hiByte k.lease, loByte k.lease, 0] s := by
  rw [answerHold, holdPosition_holder hk, hk]
  rfl

theorem answerHold_waiter {h : HostId} {k : Hold} {before after : List Waiter} {w : Waiter} (r : ResultCode) (s : State)
    (hk : k.holder ≠ h) (hsplit : k.waiters = before ++ w :: after) (hw : w.host = h)
    (hbefore : ∀ v ∈ before, v.host ≠ h) :
    answerHold h r k s
      = answerWith h r 3 [natByte k.holder.val, hiByte k.lease, loByte k.lease, natByte (before.length + 1)] s := by
  rw [answerHold, holdPosition_waiter hk hsplit hw hbefore]

/-! ## HOLD (R116) -/

section
variable {h : HostId} {s : State}

theorem hold_badParam (hbad : stationOf (arg h 0 s) = none ∨ arg16 h 1 2 s = 0) : hold h s = answer h .badParam s := by
  unfold hold
  split
  · rfl
  · next n ha => exact if_pos (hbad.resolve_left (by simp [ha]))

theorem hold_station {n : StationNo} (ha : stationOf (arg h 0 s) = some n) (hl : arg16 h 1 2 s ≠ 0) :
    hold h s = holdStation h n (arg16 h 1 2 s) s := by
  simp only [hold, ha, if_neg hl]

end

section
variable {h : HostId} {n : StationNo} {lease : Word16} {s : State}

theorem holdStation_begins (hx : (s.station n).hold = none) (hc : heldCount h s < Config.holdLimit) :
    holdStation h n lease s = answerHold h .ok ⟨h, lease, [], false⟩
      (s.setStation n { s.station n with hold := some ⟨h, lease, [], false⟩ }) := by
  simp only [holdStation, hx, if_neg (Nat.not_le.2 hc)]

theorem holdStation_limit_free (hx : (s.station n).hold = none) (hc : Config.holdLimit ≤ heldCount h s) :
    holdStation h n lease s = answer h .holdLimit s := by
  simp only [holdStation, hx, if_pos hc]

variable {k : Hold} (hx : (s.station n).hold = some k)
include hx

theorem holdStation_renews (hk : k.holder = h) :
    holdStation h n lease s = answerHold h .ok { k with lease := lease, tickWaiting := false }
      (s.setStation n { s.station n with hold := some { k with lease := lease, tickWaiting := false } }) := by
  simp only [holdStation, hx, if_pos hk]

variable (hk : k.holder ≠ h)
include hk

theorem holdStation_waitsAlready (hw : waits h k.waiters = true) :
    holdStation h n lease s = answerHold h .holdWaiting k s := by
  simp only [holdStation, hx, if_neg hk, if_pos hw]

variable (hw : waits h k.waiters = false)
include hw

theorem holdStation_limit_held (hc : Config.holdLimit ≤ heldCount h s) :
    holdStation h n lease s = answer h .holdLimit s := by
  simp [holdStation, hx, hk, hw, hc]

theorem holdStation_joins (hc : heldCount h s < Config.holdLimit) :
    holdStation h n lease s = answerHold h .holdWaiting { k with waiters := k.waiters ++ [⟨h, lease⟩] }
      (s.setStation n { s.station n with hold := some { k with waiters := k.waiters ++ [⟨h, lease⟩] } }) := by
  simp [holdStation, hx, hk, hw, Nat.not_le.2 hc]

end

/-- Settles O22: the cases of HOLD by the station's hold part, and the position each returns. -/
theorem holdAnswersByCase : Obligations.HoldAnswersByCase := by
  refine ⟨heldCount_eq, fun h s hs => ?_⟩
  rw [show exec (.hold h) s = .next (hold h s) from served_next hs]
  refine ⟨fun hbad => ?_, ?_⟩
  · rw [hold_badParam (hbad.elim (fun ha => .inl (stationOf_none (.inl ha)))
      (Or.imp_left fun ha => stationOf_none (.inr ha)))]
  rintro n _ ha rfl hl
  rw [hold_station (stationOf_some ha) hl]
  refine ⟨fun k hx hk => ?_, fun k before w after hx hk hsplit hw hbefore => ?_, fun hx hc => ?_, fun hx hc => ?_,
    fun k hx hk hw hc => ?_⟩
  · subst hk
    exact congrArg _ ((holdStation_renews hx rfl).trans (answerHold_holder _ _ rfl))
  · have hwaits : waits h k.waiters = true := (waits_iff _ _).2 ⟨w, by simp [hsplit], hw⟩
    rw [holdStation_waitsAlready hx hk hwaits, answerHold_waiter _ _ hk hsplit hw hbefore]
  · rcases hx with hx | ⟨k, hx, hk, hw⟩
    · rw [holdStation_limit_free hx hc]
    · rw [holdStation_limit_held hx hk ((waits_false_iff _ _).2 hw) hc]
  · exact congrArg _ ((holdStation_begins hx hc).trans (answerHold_holder _ _ rfl))
  · have hjoins := holdStation_joins (lease := arg16 h 1 2 s) hx hk ((waits_false_iff _ _).2 hw) hc
    exact congrArg _ (hjoins.trans (answerHold_waiter (after := []) _ _ hk rfl rfl hw))

/-! ## RELEASE (R121) and LEASE_EXPIRY (R120) -/

section
variable {h : HostId} {s : State}

theorem release_badParam (ha : stationOf (arg h 0 s) = none) : release h s = answer h .badParam s := by
  simp only [release, ha]

theorem release_station {n : StationNo} (ha : stationOf (arg h 0 s) = some n) : release h s = releaseStation h n s := by
  simp only [release, ha]

variable {n : StationNo}

theorem releaseStation_notHeld (hx : (s.station n).hold = none
      ∨ ∃ k, (s.station n).hold = some k ∧ k.holder ≠ h ∧ ∀ w ∈ k.waiters, w.host ≠ h) :
    releaseStation h n s = answer h .notHeld s := by
  rcases hx with hx | ⟨k, hx, hk, hw⟩
  · simp only [releaseStation, hx]
  · simp [releaseStation, hx, hk, (waits_false_iff _ _).2 hw]

variable {k : Hold} (hx : (s.station n).hold = some k)
include hx

theorem releaseStation_holder (hk : k.holder = h) : releaseStation h n s = answer h .ok (handOver n s) := by
  simp only [releaseStation, hx, if_pos hk]

theorem releaseStation_waiter (hk : k.holder ≠ h) (hw : waits h k.waiters = true) : releaseStation h n s =
    answer h .ok (s.setStation n { s.station n with hold := some (withoutWaiter h k) }) := by
  simp only [releaseStation, hx, if_neg hk, if_pos hw]

/-- The tick that waits at a lease is its last: the hold expires. -/
theorem leaseExpiry_waiting (hw : k.tickWaiting = true) :
    leaseExpiry n s = handOver n (latch k.holder .holdExpired s) := by
  simp only [leaseExpiry, hx, if_pos hw, expire]

end

/-- Settles O23: RELEASE by who calls it, and the expiry of a lease; both hand over by R118. -/
theorem releaseAndExpiryHandOver : Obligations.ReleaseAndExpiryHandOver := by
  refine ⟨fun h s hs => ?_, fun n k s hp hx hw => ?_⟩
  · rw [show exec (.release h) s = .next (release h s) from served_next hs]
    refine ⟨fun ha => by rw [release_badParam (stationOf_none ha)], fun n ha => ?_⟩
    rw [release_station (stationOf_some ha)]
    refine ⟨fun k hx hk => ⟨_, handOver_spec n s, ?_⟩, fun k hx hk hw => ?_, fun hx => ?_⟩
    · rw [releaseStation_holder hx hk]
    · rw [releaseStation_waiter hx hk ((waits_iff _ _).2 hw)]
      rfl
    · rw [releaseStation_notHeld hx]
  · rw [show exec (.leaseExpiry n) s = .next (leaseExpiry n s) from internal_spec.1 hp]
    exact ⟨_, handOver_spec n _, by rw [leaseExpiry_waiting hx hw]⟩

end Sys2Proof.StationHolds
end

section
/-! What leaves the station records alone: the work of every block but the Station Table. -/

namespace Sys2Proof.StationHolds

open Sys2Proof.Machine

/-- The station records stand in `t` as in `s`. -/
def SameStations (s t : State) : Prop := t.stations = s.stations

section
variable {s t u : State}

theorem SameStations.trans (h : SameStations s t) (h' : SameStations t u) : SameStations s u := Eq.trans h' h

/-- What came before and left the stations does not matter. -/
theorem SameStations.after (h' : SameStations t u) (h : SameStations s t) : SameStations s u := h.trans h'

theorem SameStations.ite {p : Prop} [Decidable p] (ht : SameStations s t) (hu : SameStations s u) :
    SameStations s (if p then t else u) := by
  split
  · exact ht
  · exact hu

theorem SameStations.of_lineOnly (h : ExchangeTable.LineOnly s t) : SameStations s t := by
  rw [← h]
  rfl

theorem SameStations.of_noticesOnly (h : StationRecords.NoticesOnly s t) : SameStations s t := by
  rw [← h]
  rfl

/-- A pass over a list leaves the stations if each of its steps does. -/
theorem foldl_sameStations {α : Type} {f : State → α → State} (hf : ∀ s a, SameStations s (f s a)) :
    ∀ (l : List α) (s : State), SameStations s (l.foldl f s)
  | [], _ => rfl
  | a :: l, s => (hf s a).trans (foldl_sameStations hf l _)

end

section
variable (s : State)

/-! ## The Buffer Pool and its arbiter -/

theorem bufAlloc_sameStations (h : HostId) : SameStations s (bufAlloc h s) := by
  refine .ite rfl ?_
  split
  · rfl
  · exact .ite rfl rfl

theorem bufFree_sameStations (h : HostId) : SameStations s (bufFree h s) := by
  unfold bufFree
  split
  · rfl
  · exact .ite rfl (.ite rfl rfl)

theorem serveClaim_sameStations (h : HostId) (c : PortClaim) : SameStations s (serveClaim h c s) := by
  cases c with
  | read offset =>
    simp only [serveClaim, serveRead]
    split <;> rfl
  | write offset value =>
    simp only [serveClaim, serveWrite]
    split <;> rfl
  | clear b owned free => rfl

/-! ## The Exchange Table and the Completion Queues -/

theorem submit_sameStations (h : HostId) : SameStations s (submit h s) := by
  unfold submit
  split
  · rfl
  · split <;> rfl

theorem enterDone_sameStations (i : SlotNo) (x : Exchange) : SameStations s (enterDone i x s) :=
  (StationRecords.enterDone_same i x s).stations

theorem takeEnd_sameStations (e : ExchangeEnd) : SameStations s (takeEnd e s) := by
  unfold takeEnd
  simp only []
  split
  case h_1 => exact (enterDone_sameStations _ _ _).after rfl
  all_goals rfl

theorem exchangeEndTaken_sameStations : SameStations s (exchangeEndTaken s) := by
  unfold exchangeEndTaken
  split
  · rfl
  · exact takeEnd_sameStations s _

theorem cancelSlot_sameStations (h : HostId) (i : SlotNo) : SameStations s (cancelSlot h i s) := by
  refine .ite rfl ?_
  split
  · exact enterDone_sameStations s i _
  all_goals rfl

theorem cancel_sameStations (h : HostId) : SameStations s (cancel h s) := by
  have hsettled (i : SlotNo) : SameStations s (settleEnd i s) := by
    unfold settleEnd
    split
    · rfl
    · exact .ite (takeEnd_sameStations s _) rfl
  unfold cancel
  split
  · rfl
  · exact (hsettled _).trans (cancelSlot_sameStations _ h _)

theorem readExchange_sameStations (h : HostId) : SameStations s (readExchange h s) := by
  unfold readExchange
  split
  · rfl
  · exact .ite rfl rfl

theorem stationFlush_sameStations : SameStations s (stationFlush s) := by
  cases hf : s.hand.flush with
  | none => simp only [stationFlush, hf]; rfl
  | some n => exact (StationRecords.stationFlush_same hf).stations

theorem resetSlots_sameStations (h : HostId) : SameStations s (resetSlots h s) := by
  refine foldl_sameStations (fun t i => .ite rfl ?_) _ s
  split <;> rfl

theorem popCompletion_sameStations (h : HostId) : SameStations s (popCompletion h s) := by
  have hposted (t : State) : SameStations t (postFromBacklog h t) := by
    unfold postFromBacklog
    split <;> rfl
  unfold popCompletion
  split
  · rfl
  · exact (hposted _).after rfl

/-! ## The Poll List -/

theorem due_sameStations (e : EntryNo) : SameStations s (due e s) := by
  have hcreated {i : SlotNo} {t : State} (hc : createInstance e s = some (i, t)) : SameStations s t := by
    unfold createInstance at hc
    split_ifs at hc
    split at hc
    · cases hc
    · cases hc
      rfl
  refine .ite rfl (.ite rfl ?_)
  split
  · next i t hc => exact (hcreated hc).trans rfl
  · rfl

theorem pollDue_sameStations (e : EntryNo) : SameStations s (pollDue e s) := by
  have htick (t : State) : SameStations t (tickEntry e t) := .ite (.ite (due_sameStations _ e) rfl) rfl
  exact .ite (htick s) (.ite rfl (htick _))

theorem pollStart_sameStations (h : HostId) : SameStations s (pollStart h s) := by
  have harmed (e : EntryNo) : SameStations s (arm h e s) := .ite (due_sameStations _ e) rfl
  unfold pollStart
  split
  · rfl
  · split
    · rfl
    · exact harmed _

theorem pollRetime_sameStations (h : HostId) : SameStations s (pollRetime h s) := by
  have hretimed (e : EntryNo) (period first : Word16) : SameStations s (retime e period first s) :=
    .ite (due_sameStations _ e) rfl
  unfold pollRetime
  split
  · rfl
  · exact .ite rfl (.ite rfl (.ite rfl (hretimed _ _ _)))

theorem takeInstEnd_sameStations (d : InstanceEnd) : SameStations s (takeInstEnd d s) := by
  unfold takeInstEnd
  simp only []
  split
  · refine .ite ?_ rfl
    split
    · exact .ite rfl rfl
    · rfl
  all_goals rfl

theorem instanceEnd_sameStations : SameStations s (instanceEnd s) := by
  unfold instanceEnd
  split
  · rfl
  · exact takeInstEnd_sameStations s _

theorem stopEntry_sameStations (h : HostId) (e : EntryNo) : SameStations s (stopEntry h e s) := by
  refine .ite rfl (.ite rfl ?_)
  unfold stopArmed
  split
  · rfl
  · exact .ite rfl (.ite rfl rfl)

theorem pollStop_sameStations (h : HostId) : SameStations s (pollStop h s) := by
  have hsettled (e : EntryNo) : SameStations s (settleInstEnd e s) := by
    unfold settleInstEnd
    split
    · rfl
    · exact .ite (takeInstEnd_sameStations s _) rfl
  unfold pollStop
  split
  · rfl
  · exact .ite rfl ((hsettled _).trans (stopEntry_sameStations _ h _))

theorem readPoll_sameStations (h : HostId) : SameStations s (readPoll h s) := by
  unfold readPoll
  split <;> rfl

theorem resetEntries_sameStations (h : HostId) : SameStations s (resetEntries h s) := by
  have hsettled : SameStations s (settleOwnInstEnd h s) := by
    unfold settleOwnInstEnd
    split
    · rfl
    · exact .ite (takeInstEnd_sameStations s _) rfl
  exact hsettled

/-! ## Attempts of the Line Engine (R96, R103 to R105) -/

theorem beginAttempt_sameStations (i : SlotNo) (first : Bool) : SameStations s (beginAttempt i first s) :=
  (SameStations.of_lineOnly (ExchangeTable.takeOrder_lineOnly _ _)).after rfl

theorem attemptEnd_sameStations (r : AttemptResult) : SameStations s (attemptEnd r s) := by
  unfold attemptEnd
  split
  · rfl
  · exact .ite rfl rfl

theorem enterIdle_sameStations : SameStations s (enterIdle s) := by
  unfold enterIdle applyStaged
  split <;> rfl

theorem arbiterServe_sameStations : SameStations s (arbiterServe s) := by
  rcases arbiterServe_cases s with ⟨-, h⟩ | ⟨c, -, -, h⟩ | ⟨k, c, -, -, -, -, h⟩ | ⟨-, -, -, h⟩ <;> rw [h]
  · rfl
  · cases c with
    | fetch b offset => rfl
    | copy b length => exact (attemptEnd_sameStations _ _).after rfl
  · exact serveClaim_sameStations _ k c
  · rfl

/-! ## The reports that the Line Engine takes -/

theorem takeSent_sameStations : SameStations s (takeSent s) := by
  unfold takeSent sentInSending
  simp only []
  split
  · split
    · exact (attemptEnd_sameStations _ _).after rfl
    · exact .ite ((attemptEnd_sameStations _ _).after rfl) rfl
  · rfl

theorem takeCutComplete_sameStations : SameStations s (takeCutComplete s) :=
  .ite ((attemptEnd_sameStations _ _).after rfl) rfl

theorem takeFrameStart_sameStations : SameStations s (takeFrameStart s) := by
  unfold takeFrameStart
  split <;> rfl

theorem acceptFrame_sameStations (i : SlotNo) (f : FrameInfo) : SameStations s (acceptFrame i f s) := by
  have hkept : SameStations s (BufferPool.replyKept i f s) := rfl
  by_cases h : (s.slot i).replyBuffer = none ∨ f.length = 0
  · rw [BufferPool.acceptFrame_ends h]
    exact (attemptEnd_sameStations _ _).after hkept
  · obtain ⟨hb, hf⟩ := not_or.1 h
    obtain ⟨b, hb⟩ := Option.ne_none_iff_exists'.1 hb
    rw [BufferPool.acceptFrame_claims hb hf]
    exact hkept.trans rfl

theorem strayEnd_sameStations (count : Stats → Stats) : SameStations s (strayEnd count s) := .ite rfl (.ite rfl rfl)

theorem takeFrameComplete_sameStations (f : FrameInfo) : SameStations s (takeFrameComplete f s) := by
  unfold takeFrameComplete completeInReceiving
  split
  · split
    · rfl
    · rfl
    · exact acceptFrame_sameStations s _ f
  · exact strayEnd_sameStations s id

theorem takeBadFrame_sameStations (r : BadReason) : SameStations s (takeBadFrame r s) := by
  unfold takeBadFrame
  split
  · exact (attemptEnd_sameStations _ _).after rfl
  · exact strayEnd_sameStations s _

theorem takeStuck_sameStations : SameStations s (takeStuck s) := by
  have hcounted : SameStations s (FieldLine.stuckCounted s) := rfl
  unfold FieldLine.stuckCounted at hcounted
  unfold takeStuck
  simp only []
  generalize latchAll .lineFault (s.setStats _) = t at hcounted ⊢
  have hparked : SameStations s (stopTimer (enterStuck t)) := hcounted
  split
  case h_4 => exact (attemptEnd_sameStations _ _).after hparked
  case h_5 => exact (attemptEnd_sameStations _ _).after hparked
  all_goals exact hcounted

/-- A report taken leaves the stations if what takes it does. -/
theorem withReport_sameStations {act : Report → State → Option State}
    (h : ∀ r t u, act r t = some u → SameStations t u) : SameStations s (withReport s act) := by
  unfold withReport
  split
  · rfl
  · next r rest _ =>
    cases hu : act r (s.setLif { s.lif with reports := rest }) with
    | none => rfl
    | some u => exact (h _ _ _ hu).after rfl

theorem sentReport_sameStations : SameStations s (sentReport s) := by
  refine withReport_sameStations s fun r t u hu => ?_
  cases r <;> cases hu
  exact takeSent_sameStations t

theorem collisionReport_sameStations : SameStations s (collisionReport s) := by
  refine withReport_sameStations s fun r t u hu => ?_
  cases r <;> cases hu
  exact .ite rfl rfl

theorem cutCompleteReport_sameStations : SameStations s (cutCompleteReport s) := by
  refine withReport_sameStations s fun r t u hu => ?_
  cases r <;> cases hu
  exact takeCutComplete_sameStations t

theorem frameStartReport_sameStations : SameStations s (frameStartReport s) := by
  refine withReport_sameStations s fun r t u hu => ?_
  cases r <;> cases hu
  exact takeFrameStart_sameStations t

theorem frameCompleteReport_sameStations : SameStations s (frameCompleteReport s) := by
  refine withReport_sameStations s fun r t u hu => ?_
  cases r <;> cases hu
  exact takeFrameComplete_sameStations t _

theorem badFrameReport_sameStations : SameStations s (badFrameReport s) := by
  refine withReport_sameStations s fun r t u hu => ?_
  cases r <;> cases hu
  exact takeBadFrame_sameStations t _

theorem stuckReport_sameStations : SameStations s (stuckReport s) := by
  refine withReport_sameStations s fun r t u hu => ?_
  cases r <;> cases hu
  exact takeStuck_sameStations t

theorem recoveryReport_sameStations : SameStations s (recoveryReport s) := by
  refine withReport_sameStations s fun r t u hu => ?_
  cases r <;> cases hu
  exact .ite rfl rfl

/-! ## The reply timer, the guard, LINE_RESET and the Line Scheduler -/

theorem replyTimerExpiry_sameStations : SameStations s (replyTimerExpiry s) := by
  have htick (t : State) : SameStations t (tickTimer t) := .ite (.ite ((attemptEnd_sameStations _ _).after rfl) rfl) rfl
  exact .ite (htick s) (.ite rfl (htick _))

theorem guardRunOut_sameStations : SameStations s (guardRunOut s) := by
  have hretried (i : SlotNo) (t : State) : SameStations t (retryOrEnd i t) :=
    .ite ((enterIdle_sameStations _).after rfl) ((beginAttempt_sameStations _ i false).after rfl)
  refine .ite (.ite rfl ?_) rfl
  split
  · exact (hretried _ _).after rfl
  · exact (enterIdle_sameStations _).after rfl

theorem lineReset_sameStations (h : HostId) : SameStations s (lineReset h s) := by
  unfold lineReset
  split
  case h_3 => exact .ite ((SameStations.of_lineOnly (ExchangeTable.cut_lineOnly _)).after rfl) rfl
  case h_4 => exact (attemptEnd_sameStations _ _).after rfl
  case h_5 => exact (attemptEnd_sameStations _ _).after rfl
  all_goals rfl

theorem schedulerRun_sameStations : SameStations s (schedulerRun s) := by
  refine .ite (.ite ?_ rfl) rfl
  simp only []
  split
  · rfl
  · exact (beginAttempt_sameStations _ _ true).after rfl

/-! ## Ports, settings and time -/

theorem noticeCodeRead_sameStations (h : HostId) : SameStations s (noticeCodeRead h s) := by
  unfold noticeCodeRead
  split <;> rfl

theorem setSettings_sameStations (h : HostId) : SameStations s (setSettings h s) := .ite rfl (.ite rfl rfl)

theorem hostPortResetAssert_sameStations (h : HostId) : SameStations s (hostPortResetAssert h s) := by
  have habandoned : SameStations s (abandonAccess h s) := by
    unfold abandonAccess
    split
    · exact .ite rfl rfl
    · rfl
  refine .ite rfl ?_
  split
  · rfl
  · exact habandoned

theorem hostPortResetRelease_sameStations (h : HostId) : SameStations s (hostPortResetRelease h s) := by
  refine .ite rfl ?_
  split <;> rfl

theorem portResetPart_sameStations (h : HostId) : SameStations s (portResetPart h s) := .ite rfl rfl
theorem powerOnResetRelease_sameStations : SameStations s (powerOnResetRelease s) := .ite rfl rfl
theorem clockPeriod_sameStations : SameStations s (clockPeriod s) := .ite rfl rfl

end

end Sys2Proof.StationHolds
end

section
/-! The hold parts in order (R115): what may be made of a hold part, and what the Station Table's commands and events make of the hold parts. -/

namespace Sys2Proof.StationHolds

open Sys2Proof.Machine

/-! ## One hold part -/

section
variable {k : Hold}

theorem holdOk_begun (h : HostId) {lease : Word16} (hl : lease ≠ 0) : HoldOk ⟨h, lease, [], false⟩ :=
  ⟨hl, by simp, by simp⟩

theorem holdOk_withLease {lease : Word16} (hk : HoldOk k) (hl : lease ≠ 0) (w : Bool) :
    HoldOk { k with lease := lease, tickWaiting := w } := ⟨hl, hk.2⟩

/-- A host that neither holds nor waits joins the wait list. -/
theorem holdOk_joined {h : HostId} {lease : Word16} (hk : HoldOk k) (hl : lease ≠ 0) (hh : k.holder ≠ h)
    (hw : ∀ w ∈ k.waiters, w.host ≠ h) : HoldOk { k with waiters := k.waiters ++ [⟨h, lease⟩] } := by
  obtain ⟨hlease, hleases, hhosts⟩ := hk
  refine ⟨hlease, ?_, ?_⟩
  · simpa [or_imp, forall_and] using ⟨hleases, hl⟩
  · rw [List.map_append, ← List.cons_append, List.nodup_append]
    refine ⟨hhosts, List.nodup_singleton h, ?_⟩
    simpa [hh] using hw

theorem holdOk_withoutWaiter (h : HostId) (hk : HoldOk k) : HoldOk (withoutWaiter h k) := by
  obtain ⟨hlease, hleases, hhosts⟩ := hk
  refine ⟨hlease, fun w hw => hleases w (List.mem_of_mem_filter hw), hhosts.sublist ?_⟩
  exact (List.filter_sublist.map Waiter.host).cons_cons k.holder

/-- A waiter becomes holder with its kept lease, and those behind it wait on (R118). -/
theorem holdOk_granted {skipped rest : List Waiter} {w : Waiter} (hk : HoldOk k) (hw : k.waiters = skipped ++ w :: rest) :
    HoldOk ⟨w.host, w.lease, rest, false⟩ := by
  obtain ⟨-, hleases, hhosts⟩ := hk
  rw [hw] at hleases hhosts
  refine ⟨hleases w (by simp), fun v hv => hleases v (by simp [hv]), hhosts.sublist ?_⟩
  rw [List.map_append, List.map_cons]
  exact (List.sublist_append_right _ _).trans (List.sublist_cons_self _ _)

/-- A lease above one millisecond is lowered to one that is not 0 (R119). -/
theorem lowered_lease_ne_zero {lease : Word16} (hl : 1 < lease.toNat) : lease - 1 ≠ 0 := by
  intro h0
  obtain rfl : lease = 1 := sub_eq_zero.1 h0
  exact absurd hl (by decide)

theorem holdOk_ticked (hk : HoldOk k) : HoldOk k.ticked := by
  rw [LineEngine.ticked_hold]
  split
  · next hl => exact holdOk_withLease hk (lowered_lease_ne_zero hl) k.tickWaiting
  · exact holdOk_withLease hk hk.1 true

end

/-! ## All hold parts -/

/-- From `s` to `t` the hold parts stay in order. -/
def HoldsKept (s t : State) : Prop := HoldsOk s → HoldsOk t

theorem heldBy_congr (j : HostId) {x y : Station} (h : x.hold = y.hold) : heldBy j x = heldBy j y := by
  simp only [heldBy, h]

theorem heldBy_some (j : HostId) {x : Station} {k : Hold} (hx : x.hold = some k) : heldBy j x = decide (k.holder = j) := by
  simp only [heldBy, hx]

section
variable {s t u : State}

theorem heldCount_congr {j : HostId} (h : ∀ n, heldBy j (t.station n) = heldBy j (s.station n)) :
    heldCount j t = heldCount j s :=
  congrArg (fun p => (List.finRange 31).countP p) (funext h)

/-- What a new record of one station does to a held count. -/
theorem heldCount_setStation (j : HostId) (n : StationNo) (x : Station) (s : State) :
    heldCount j (s.setStation n x) + (heldBy j (s.station n)).toNat = heldCount j s + (heldBy j x).toNat :=
  tcount_tput (heldBy j) s.stations n x

theorem HoldsKept.refl (s : State) : HoldsKept s s := id

theorem HoldsKept.trans (h : HoldsKept s t) (h' : HoldsKept t u) : HoldsKept s u := h' ∘ h

theorem HoldsKept.ite {p : Prop} [Decidable p] (ht : HoldsKept s t) (hu : HoldsKept s u) :
    HoldsKept s (if p then t else u) := by
  split
  · exact ht
  · exact hu

/-- Each holder stays, and each hold part is in order. -/
theorem HoldsKept.of_holders (hparts : HoldsOk s → ∀ n k, (t.station n).hold = some k → HoldOk k)
    (hheld : ∀ j n, heldBy j (t.station n) = heldBy j (s.station n)) : HoldsKept s t :=
  fun hs => ⟨hparts hs, fun j => (heldCount_congr (hheld j)).trans_le (hs.2 j)⟩

theorem HoldsKept.of_holds (h : ∀ n, (t.station n).hold = (s.station n).hold) : HoldsKept s t :=
  .of_holders (fun hs n k hk => hs.1 n k ((h n).symm.trans hk)) fun j n => heldBy_congr j (h n)

theorem HoldsKept.of_same (h : SameStations s t) : HoldsKept s t :=
  .of_holds fun n => congrArg (fun stations => (tget stations n).hold) h

/-- What follows and leaves the stations does not matter. -/
theorem HoldsKept.then_same (h : HoldsKept s t) (h' : SameStations t u) : HoldsKept s u := h.trans (.of_same h')

/-- What came before and left the stations does not matter. -/
theorem HoldsKept.after_same (h : HoldsKept t u) (h' : SameStations s t) : HoldsKept s u := (HoldsKept.of_same h').trans h

end

section
variable {n : StationNo} {x : Station} {s t : State}

/-- One hold part is replaced by one in order, whose holder holds the station already or is below its limit (R115). -/
theorem setStation_kept (ht : SameStations (s.setStation n x) t) (hpart : HoldsOk s → ∀ k, x.hold = some k → HoldOk k)
    (hroom : ∀ k, x.hold = some k → heldBy k.holder (s.station n) = true ∨ heldCount k.holder s < Config.holdLimit) :
    HoldsKept s t := by
  refine HoldsKept.then_same (t := s.setStation n x) (fun hs => ?_) ht
  refine ⟨fun m k hk => ?_, fun j => ?_⟩
  · rw [State.setStation_station] at hk
    split at hk
    · exact hpart hs k hk
    · exact hs.1 m k hk
  · have hcount := heldCount_setStation j n x s
    have hlimit := hs.2 j
    cases hj : heldBy j x with
    | false =>
      rw [hj, Bool.toNat_false] at hcount
      omega
    | true =>
      obtain ⟨k, hk, rfl⟩ := (StationRecords.heldBy_iff _ _).1 hj
      rw [hj, Bool.toNat_true] at hcount
      rcases hroom k hk with hheld | hbelow
      · rw [hheld, Bool.toNat_true] at hcount
        omega
      · omega

/-- The record of a station changes but for its hold part. -/
theorem setStation_sameHold (ht : SameStations (s.setStation n x) t) (hx : x.hold = (s.station n).hold) :
    HoldsKept s t := by
  refine HoldsKept.then_same (t := s.setStation n x) (.of_holds fun m => ?_) ht
  rw [State.setStation_station]
  split
  · next hm => rw [hx, hm]
  · rfl

/-- The holder's own part changes, and the holder stays. -/
theorem setStation_sameHolder {k k' : Hold} (ht : SameStations (s.setStation n { s.station n with hold := some k' }) t)
    (hx : (s.station n).hold = some k) (hholder : k'.holder = k.holder) (hok : HoldOk k → HoldOk k') : HoldsKept s t := by
  refine setStation_kept ht (fun hs => ?_) ?_
  · rintro _ ⟨⟩
    exact hok (hs.1 n k hx)
  · rintro _ ⟨⟩
    exact .inl (by simp [heldBy_some _ hx, hholder])

end

/-! ## HOLD and RELEASE (R116, R118, R121) -/

section
variable {h : HostId} {n : StationNo} {s : State}

theorem holdStation_kept {lease : Word16} (hl : lease ≠ 0) : HoldsKept s (holdStation h n lease s) := by
  cases hx : (s.station n).hold with
  | none =>
    rcases lt_or_ge (heldCount h s) Config.holdLimit with hc | hc
    · rw [holdStation_begins hx hc]
      refine setStation_kept rfl (fun _ => ?_) ?_
      · rintro _ ⟨⟩
        exact holdOk_begun h hl
      · rintro _ ⟨⟩
        exact .inr hc
    · rw [holdStation_limit_free hx hc]
      exact .of_same rfl
  | some k =>
    by_cases hk : k.holder = h
    · rw [holdStation_renews hx hk]
      exact setStation_sameHolder rfl hx rfl fun hok => holdOk_withLease hok hl false
    cases hw : waits h k.waiters with
    | true =>
      rw [holdStation_waitsAlready hx hk hw]
      exact .of_same rfl
    | false =>
      rcases lt_or_ge (heldCount h s) Config.holdLimit with hc | hc
      · rw [holdStation_joins hx hk hw hc]
        exact setStation_sameHolder rfl hx rfl fun hok => holdOk_joined hok hl hk ((waits_false_iff _ _).1 hw)
      · rw [holdStation_limit_held hx hk hw hc]
        exact .of_same rfl

theorem hold_kept (h : HostId) (s : State) : HoldsKept s (hold h s) := by
  cases ha : stationOf (arg h 0 s) with
  | none =>
    rw [hold_badParam (.inl ha)]
    exact .of_same rfl
  | some n =>
    by_cases hl : arg16 h 1 2 s = 0
    · rw [hold_badParam (.inr hl)]
      exact .of_same rfl
    · rw [hold_station ha hl]
      exact holdStation_kept hl

/-- The state in which the holder of a station has departed. -/
def departed (n : StationNo) (s : State) : State := s.setStation n { s.station n with hold := none }

theorem departed_kept (n : StationNo) (s : State) : HoldsKept s (departed n s) :=
  setStation_kept rfl (fun _ _ hk => by cases hk) fun _ hk => by cases hk

theorem latchEach_sameStations (src : NoticeSource) (hosts : List HostId) (s : State) :
    SameStations s (latchEach src hosts s) := .of_noticesOnly (StationRecords.latchEach_noticesOnly src hosts s)

/-- What a hand-over makes of the stations: the hold part is gone, or the first waiter below its limit holds the station. -/
theorem handOver_stations {k : Hold} (hx : (s.station n).hold = some k) :
    SameStations (departed n s) (handOver n s)
    ∨ ∃ skipped w rest, k.waiters = skipped ++ w :: rest ∧ heldCount w.host (departed n s) < Config.holdLimit
      ∧ SameStations ((departed n s).setStation n { s.station n with hold := some ⟨w.host, w.lease, rest, false⟩ })
          (handOver n s) := by
  obtain ⟨hgone, hgranted⟩ := handOver_spec n s k hx
  cases hfind : k.waiters.find? fun v => decide (heldCount v.host (departed n s) < Config.holdLimit) with
  | none =>
    refine .inl ?_
    rw [hgone fun v hv => not_lt.1 fun hlt => List.find?_eq_none.1 hfind v hv (decide_eq_true hlt)]
    exact latchEach_sameStations _ _ _
  | some w =>
    obtain ⟨hbelow, skipped, rest, hw, hlimit⟩ := List.find?_eq_some_iff_append.1 hfind
    have hskipped : ∀ v ∈ skipped, Config.holdLimit ≤ heldCount v.host (departed n s) :=
      fun v hv => by simpa using hlimit v hv
    refine .inr ⟨skipped, w, rest, hw, of_decide_eq_true hbelow, ?_⟩
    rw [hgranted skipped w rest hw hskipped (of_decide_eq_true hbelow)]
    exact congrArg (fun stations => tput stations n _) (latchEach_sameStations .holdExpired _ (departed n s))

theorem handOver_kept (n : StationNo) (s : State) : HoldsKept s (handOver n s) := by
  cases hx : (s.station n).hold with
  | none =>
    simp only [handOver, hx]
    exact .refl s
  | some k =>
    intro hs
    have hgone : HoldsOk (departed n s) := departed_kept n s hs
    rcases handOver_stations hx with hsame | ⟨skipped, w, rest, hw, hbelow, hsame⟩
    · exact HoldsKept.of_same hsame hgone
    · refine setStation_kept hsame (fun _ => ?_) ?_ hgone
      · rintro _ ⟨⟩
        exact holdOk_granted (hs.1 n k hx) hw
      · rintro _ ⟨⟩
        exact .inr hbelow

theorem releaseStation_kept (h : HostId) (n : StationNo) (s : State) : HoldsKept s (releaseStation h n s) := by
  cases hx : (s.station n).hold with
  | none =>
    rw [releaseStation_notHeld (.inl hx)]
    exact .of_same rfl
  | some k =>
    by_cases hk : k.holder = h
    · rw [releaseStation_holder hx hk]
      exact (handOver_kept n s).then_same rfl
    cases hw : waits h k.waiters with
    | true =>
      rw [releaseStation_waiter hx hk hw]
      exact setStation_sameHolder rfl hx rfl (holdOk_withoutWaiter h)
    | false =>
      rw [releaseStation_notHeld (.inr ⟨k, hx, hk, (waits_false_iff _ _).1 hw⟩)]
      exact .of_same rfl

theorem release_kept (h : HostId) (s : State) : HoldsKept s (release h s) := by
  cases ha : stationOf (arg h 0 s) with
  | none =>
    rw [release_badParam ha]
    exact .of_same rfl
  | some n =>
    rw [release_station ha]
    exact releaseStation_kept h n s

end

/-! ## Leases and ticks (R119, R120, R165) -/

theorem expire_kept (n : StationNo) (k : Hold) (s : State) : HoldsKept s (expire n k s) :=
  (handOver_kept n _).after_same rfl

theorem tickLease_kept (n : StationNo) (s : State) : HoldsKept s (tickLease n s) := by
  cases hx : (s.station n).hold with
  | none =>
    simp only [tickLease, hx]
    exact .refl s
  | some k =>
    rcases lt_or_ge 1 k.lease.toNat with hl | hl
    · rw [LineEngine.tickLease_lowers hx hl]
      exact setStation_sameHolder rfl hx rfl fun hok => holdOk_withLease hok (lowered_lease_ne_zero hl) k.tickWaiting
    · rw [LineEngine.tickLease_last hx hl]
      exact expire_kept n k s

theorem leaseExpiry_kept (n : StationNo) (s : State) : HoldsKept s (leaseExpiry n s) := by
  unfold leaseExpiry
  split
  · exact .of_same rfl
  · exact .ite (expire_kept n _ s) (.ite (.refl s) ((tickLease_kept n _).after_same rfl))

theorem ticked_kept (s : State) : HoldsKept s (LineEngine.ticked s) := by
  refine .of_holders (fun hs n k hk => ?_) fun j n => ?_ <;> rw [LineEngine.ticked_station] at *
  · split at hk
    · exact hs.1 n k hk
    · obtain ⟨k', hk', rfl⟩ := Option.map_eq_some_iff.1 hk
      exact holdOk_ticked (hs.1 n k' hk')
  · split
    · rfl
    · cases hx : (s.station n).hold with
      | none => exact heldBy_congr j hx.symm
      | some k =>
        have hholder : k.ticked.holder = k.holder := by
          unfold Hold.ticked
          split <;> rfl
        rw [heldBy_some j hx, heldBy_some j rfl, hholder]

theorem tick_kept (s : State) : HoldsKept s (tick s) := by
  cases hw : tickWaits s with
  | true => exact .of_same (congrArg State.stations (if_pos hw))
  | false =>
    rw [LineEngine.tick_eq s hw]
    exact ticked_kept s

/-! ## A port reset (R38, R126) -/

theorem forgotten_kept (h : HostId) (s : State) : HoldsKept s (StationRecords.forgotten h s) := by
  refine .of_holders (fun hs n k hk => ?_) fun j n => ?_ <;> rw [StationRecords.forgotten_station] at *
  · obtain ⟨k', hk', rfl⟩ := Option.map_eq_some_iff.1 hk
    exact holdOk_withoutWaiter h (hs.1 n k' hk')
  · exact StationRecords.heldBy_forgetHost j h _

theorem foldl_handOverIfHeld_kept (h : HostId) : ∀ (l : List StationNo) (s : State),
    HoldsKept s (l.foldl (handOverIfHeld h) s)
  | [], s => .refl s
  | n :: l, s => by
    have hfirst : HoldsKept s (handOverIfHeld h s n) := .ite (handOver_kept n s) (.refl s)
    exact hfirst.trans (foldl_handOverIfHeld_kept h l _)

theorem resetStations_kept (h : HostId) (s : State) : HoldsKept s (resetStations h s) :=
  (forgotten_kept h s).trans (foldl_handOverIfHeld_kept h _ _)

/-! ## The Station Table's other commands leave the hold parts (R22, R31 to R33, R36) -/

section
variable (s : State)

theorem readStation_kept (h : HostId) : HoldsKept s (readStation h s) := by
  unfold readStation
  split
  · exact .of_same rfl
  · exact setStation_sameHold rfl rfl

theorem subscribe_kept (h : HostId) : HoldsKept s (subscribe h s) := by
  unfold subscribe
  split
  · exact .of_same rfl
  · exact .ite (.of_same rfl) (setStation_sameHold rfl rfl)

theorem unsubscribe_kept (h : HostId) : HoldsKept s (unsubscribe h s) := by
  unfold unsubscribe
  split
  · exact .of_same rfl
  · exact .ite (setStation_sameHold rfl rfl) (.of_same rfl)

theorem stationChange_kept (n : StationNo) : HoldsKept s (stationChange n s) :=
  setStation_sameHold (n := n) rfl rfl

theorem revive_kept (h : HostId) : HoldsKept s (revive h s) := by
  have hsettled (n : StationNo) : SameStations s (settleFlush n s) := .ite (stationFlush_sameStations s) rfl
  have hrevived (n : StationNo) (t : State) : HoldsKept t (reviveStation n t) := by
    refine HoldsKept.trans ?_ (stationChange_kept _ n)
    exact setStation_sameHold rfl rfl
  unfold revive
  split
  · exact .of_same rfl
  · exact .ite (((hrevived _ _).after_same (hsettled _)).then_same rfl) (.of_same rfl)

theorem takeReport_kept (r : EndReport) : HoldsKept s (takeReport r s) := by
  rw [StationRecords.takeReport_eq]
  refine HoldsKept.then_same (t := StationRecords.announced r s) (.of_holds fun n => ?_) rfl
  by_cases hn : n = r.station
  · rw [hn, StationRecords.announced_station]
    exact StationRecords.afterReport_hold _
  · rw [StationRecords.announced_otherStation r s hn]

theorem exchangeEndReport_kept : HoldsKept s (exchangeEndReport s) := by
  unfold exchangeEndReport
  split
  · exact .refl s
  · exact .ite (.refl s) (takeReport_kept s _)

theorem powerOnReset_kept : HoldsKept s (powerOnReset s) := by
  have hnone (n : StationNo) : ((powerOnReset s).station n).hold = none :=
    congrArg Station.hold (FieldLine.reset_station n)
  refine fun _ => ⟨fun n k hk => ?_, fun h => ?_⟩
  · rw [hnone] at hk
    cases hk
  · rw [StationRecords.heldCount_eq_zero fun n => by simp only [heldBy, hnone]]
    exact Nat.zero_le _

end

end Sys2Proof.StationHolds
end

section
/-! The hold parts in order (R115, R119) along every command and every step. -/

namespace Sys2Proof.StationHolds

open Sys2Proof.Machine

/-! ## The commands issued at a port -/

section
variable (h : HostId) (s : State)

theorem issue_kept (c : HostCommand) : HoldsKept s (issue h c s) := by
  cases c with
  | hold => exact hold_kept h s
  | release => exact release_kept h s
  | readStation => exact readStation_kept s h
  | subscribe => exact subscribe_kept s h
  | unsubscribe => exact unsubscribe_kept s h
  | revive => exact revive_kept s h
  | bufAlloc => exact .of_same (bufAlloc_sameStations s h)
  | bufFree => exact .of_same (bufFree_sameStations s h)
  | submit => exact .of_same (submit_sameStations s h)
  | cancel => exact .of_same (cancel_sameStations s h)
  | readExchange => exact .of_same (readExchange_sameStations s h)
  | pollStart => exact .of_same (pollStart_sameStations s h)
  | pollRetime => exact .of_same (pollRetime_sameStations s h)
  | pollStop => exact .of_same (pollStop_sameStations s h)
  | readPoll => exact .of_same (readPoll_sameStations s h)
  | popCompletion => exact .of_same (popCompletion_sameStations s h)
  | setSettings => exact .of_same (setSettings_sameStations s h)
  | readSettings => exact .of_same rfl
  | lineReset => exact .of_same (lineReset_sameStations s h)
  | readLine => exact .of_same rfl
  | clearStats => exact .of_same rfl

theorem commandWrite_kept (code : Byte) : HoldsKept s (commandWrite h code s) := by
  unfold commandWrite
  split
  · exact .of_same rfl
  · exact issue_kept h s _

theorem portRegisterWrite_kept (location : BitVec 7) (value : Byte) :
    HoldsKept s (portRegisterWrite h location value s) := by
  unfold portRegisterWrite locationWrite
  split_ifs
  · exact .of_same rfl
  · exact .of_same rfl
  · exact commandWrite_kept h s value
  · exact .of_same rfl
  · split
    · exact .of_same rfl
    · exact .refl s

end

/-! ## Every command -/

/-- A command that goes on keeps the hold parts in order. -/
def NextKept (s : State) (o : Host.Outcome State Fault Refusal) : Prop := ∀ t, o = .next t → HoldsKept s t

section
variable {s : State}

theorem nextKept_next {t : State} (h : HoldsKept s t) : NextKept s (.next t) := fun _ ht => Host.Outcome.next.inj ht ▸ h

/-- An access that is served, abandoned, or waits at its port. -/
theorem nextKept_served {c : Instr} {h : HostId} {act : State → State} (ha : HoldsKept s (act s)) :
    NextKept s (served c h s act) := nextKept_next (.ite ha (.ite (.refl s) (.of_same rfl)))

theorem nextKept_internal {act : State → State} (ha : HoldsKept s (act s)) : NextKept s (internal s act) :=
  nextKept_next (.ite (.refl s) ha)

/-- A part of a release, by what the block does in it. -/
theorem nextKept_releasePart {h : HostId} {part next : ReleasePart} {act : State → State} (ha : HoldsKept s (act s)) :
    NextKept s (internal s (releasePart h part next act)) :=
  nextKept_internal (.ite (ha.then_same rfl) (.refl s))

/-- An access whose work is outside the Station Table. -/
theorem nextKept_servedOutside {c : Instr} {h : HostId} {act : State → State} (ha : SameStations s (act s)) :
    NextKept s (served c h s act) := nextKept_served (.of_same ha)

/-- An event whose work is outside the Station Table. -/
theorem nextKept_outside {act : State → State} (ha : SameStations s (act s)) : NextKept s (internal s act) :=
  nextKept_internal (.of_same ha)

/-- An event of the Line Interface. -/
theorem nextKept_line {act : State → State} (ha : ExchangeTable.LineOnly s (act s)) : NextKept s (internal s act) :=
  nextKept_outside (.of_lineOnly ha)

end

theorem exec_kept (c : Instr) (s : State) : NextKept s (exec c s) := by
  cases c with
  | hold h => exact nextKept_served (hold_kept h s)
  | release h => exact nextKept_served (release_kept h s)
  | leaseExpiry n => exact nextKept_internal (leaseExpiry_kept n s)
  | tick => exact nextKept_internal (tick_kept s)
  | stabResetPart h => exact nextKept_releasePart (resetStations_kept h s)
  | powerOnReset => exact nextKept_next (powerOnReset_kept s)
  | readStation h => exact nextKept_served (readStation_kept s h)
  | subscribe h => exact nextKept_served (subscribe_kept s h)
  | unsubscribe h => exact nextKept_served (unsubscribe_kept s h)
  | revive h => exact nextKept_served (revive_kept s h)
  | exchangeEndReport => exact nextKept_internal (exchangeEndReport_kept s)
  | badCommand h code => exact nextKept_served (commandWrite_kept h s code)
  | portRegisterWrite h location value => exact nextKept_served (portRegisterWrite_kept h s location value)
  | bufAlloc h => exact nextKept_servedOutside (bufAlloc_sameStations s h)
  | bufFree h => exact nextKept_servedOutside (bufFree_sameStations s h)
  | submit h => exact nextKept_servedOutside (submit_sameStations s h)
  | cancel h => exact nextKept_servedOutside (cancel_sameStations s h)
  | readExchange h => exact nextKept_servedOutside (readExchange_sameStations s h)
  | pollStart h => exact nextKept_servedOutside (pollStart_sameStations s h)
  | pollRetime h => exact nextKept_servedOutside (pollRetime_sameStations s h)
  | pollStop h => exact nextKept_servedOutside (pollStop_sameStations s h)
  | readPoll h => exact nextKept_servedOutside (readPoll_sameStations s h)
  | popCompletion h => exact nextKept_servedOutside (popCompletion_sameStations s h)
  | setSettings h => exact nextKept_servedOutside (setSettings_sameStations s h)
  | readSettings h => exact nextKept_servedOutside rfl
  | lineReset h => exact nextKept_servedOutside (lineReset_sameStations s h)
  | readLine h => exact nextKept_servedOutside rfl
  | clearStats h => exact nextKept_servedOutside rfl
  | noticeCodeRead h => exact nextKept_servedOutside (noticeCodeRead_sameStations s h)
  | noticeMaskWrite h value => exact nextKept_servedOutside rfl
  | portStatusRead h => exact nextKept_servedOutside rfl
  | windowRead h offset => exact nextKept_servedOutside rfl
  | windowWrite h offset value => exact nextKept_servedOutside rfl
  | arbiterServe => exact nextKept_outside (arbiterServe_sameStations s)
  | hostPortResetAssert h => exact nextKept_next (.of_same (hostPortResetAssert_sameStations s h))
  | hostPortResetRelease h => exact nextKept_next (.of_same (hostPortResetRelease_sameStations s h))
  | xtabResetPart h => exact nextKept_releasePart (.of_same (resetSlots_sameStations s h))
  | bpoolResetPart h => exact nextKept_releasePart (.of_same rfl)
  | plstResetPart h => exact nextKept_releasePart (.of_same (resetEntries_sameStations s h))
  | cqResetPart h => exact nextKept_releasePart (.of_same rfl)
  | nctlResetPart h => exact nextKept_releasePart (.of_same rfl)
  | portResetPart h => exact nextKept_outside (portResetPart_sameStations s h)
  | replyTimerExpiry => exact nextKept_outside (replyTimerExpiry_sameStations s)
  | pollDue e => exact nextKept_outside (pollDue_sameStations s e)
  | guardRunOut => exact nextKept_outside (guardRunOut_sameStations s)
  | schedulerRun => exact nextKept_outside (schedulerRun_sameStations s)
  | openingBreakEnd => exact nextKept_line (ExchangeTable.openingBreakEnd_lineOnly s)
  | characterSent => exact nextKept_line (ExchangeTable.characterSent_lineOnly s)
  | echoCollision => exact nextKept_line (ExchangeTable.echoCollision_lineOnly s)
  | frameSent => exact nextKept_line (ExchangeTable.frameSent_lineOnly s)
  | cutBreakEnd => exact nextKept_line (ExchangeTable.cutBreakEnd_lineOnly s)
  | breakDetected => exact nextKept_line (ExchangeTable.breakDetected_lineOnly s)
  | breakEnd => exact nextKept_line (ExchangeTable.breakEnd_lineOnly s)
  | characterTaken value => exact nextKept_line (ExchangeTable.characterTaken_lineOnly s value)
  | framingError => exact nextKept_line (ExchangeTable.framingError_lineOnly s)
  | gapLimit => exact nextKept_line (ExchangeTable.gapLimit_lineOnly s)
  | stuckDetected => exact nextKept_line (ExchangeTable.stuckDetected_lineOnly s)
  | lineRecovered => exact nextKept_line (ExchangeTable.lineRecovered_lineOnly s)
  | halfBitSample => exact nextKept_line (ExchangeTable.halfBitSample_lineOnly s)
  | markToSpaceEdge => exact nextKept_next (.of_same (.of_lineOnly (ExchangeTable.markToSpaceEdge_lineOnly s)))
  | spaceToMarkEdge => exact nextKept_next (.of_same (.of_lineOnly (ExchangeTable.spaceToMarkEdge_lineOnly s)))
  | sentReport => exact nextKept_outside (sentReport_sameStations s)
  | collisionReport => exact nextKept_outside (collisionReport_sameStations s)
  | cutCompleteReport => exact nextKept_outside (cutCompleteReport_sameStations s)
  | frameStartReport => exact nextKept_outside (frameStartReport_sameStations s)
  | frameCompleteReport => exact nextKept_outside (frameCompleteReport_sameStations s)
  | badFrameReport => exact nextKept_outside (badFrameReport_sameStations s)
  | stuckReport => exact nextKept_outside (stuckReport_sameStations s)
  | recoveryReport => exact nextKept_outside (recoveryReport_sameStations s)
  | exchangeEndTaken => exact nextKept_outside (exchangeEndTaken_sameStations s)
  | stationFlush => exact nextKept_outside (stationFlush_sameStations s)
  | instanceEnd => exact nextKept_outside (instanceEnd_sameStations s)
  | powerOnResetRelease => exact nextKept_next (.of_same (powerOnResetRelease_sameStations s))

/-! ## Every step -/

section
variable {s t : State}

theorem serveWaiting_kept {h : HostId} {c : Instr} (ht : serveWaiting h c s = .next t) : HoldsKept s t := by
  obtain ⟨u, hu⟩ := FieldLine.exec_goesOn c (setWaiting h [] s)
  obtain rfl : setWaiting h (s.port h).waiting.tail u = t := by simpa [serveWaiting, hu] using ht
  have hserved : HoldsKept (setWaiting h [] s) u := exec_kept c _ u hu
  exact (hserved.after_same rfl).then_same rfl

theorem idleStep_kept (ht : idleStep s = .next t) : HoldsKept s t := by
  unfold idleStep at ht
  split at ht
  · exact exec_kept _ s t ht
  · split at ht
    · exact serveWaiting_kept ht
    · obtain rfl := Host.Outcome.next.inj ht
      exact .of_same (clockPeriod_sameStations s)

end

/-- Settles O8: the command at the front of the queue, or what the part does of itself. -/
theorem holdsStayInOrder : Obligations.HoldsStayInOrder := by
  intro s t hs ht
  unfold step at ht
  split at ht
  · exact idleStep_kept ht hs
  · next c rest _ =>
    have htaken : HoldsOk { s with pending := rest } := hs
    exact exec_kept c _ t ht htaken

end Sys2Proof.StationHolds
end

section
/-! The Poll List's taking of the end of a poll's exchange (R135 to R137), POLL_STOP (R67, R139, R140), and the list's part of a port reset's release (R142). -/

namespace Sys2Proof.PollList

open Sys2Proof.Machine

/-! ## INSTANCE_END (R135 to R137) -/

/-- The state with no INSTANCE_END waiting at the Poll List. -/
def instEndTaken (s : State) : State := s.setHand { s.hand with instEnd := none }

theorem exec_instanceEnd {d : InstanceEnd} {s : State} (hp : s.porst = false) (hd : s.hand.instEnd = some d) :
    exec .instanceEnd s = .next (takeInstEnd d s) := by
  rw [show exec .instanceEnd s = .next (instanceEnd s) from internal_spec.1 hp, instanceEnd, hd]

theorem answersStation_iff (o : ExOutcome) : answersStation o = true ↔ o = .answered ∨ o = .refused := decide_eq_true_iff

/-- A reply is the last one again: its length, and its check value or that value moved by the sequence correction (R136). -/
theorem sameReply_iff (length : Nat) (c : Word16) (x : PollEntry) : sameReply length c x = true ↔
    ∃ k, x.lastCheck = some k ∧ x.lastLength = some length ∧ (c = k ∨ c ^^^ k = sequenceCorrection length) := by
  unfold sameReply
  cases x.lastCheck <;> simp

section
variable {d : InstanceEnd} {s : State}

theorem recordEnd_unanswered (ho : ¬ (d.outcome = .answered ∨ d.outcome = .refused)) : recordEnd d s =
    s.setEntry d.entry { s.entry d.entry with inst := none, lastOutcome := some d.outcome } :=
  if_neg (mt (answersStation_iff _).1 ho)

section
variable (ho : d.outcome = .answered ∨ d.outcome = .refused)
include ho

theorem recordEnd_uncompared (hc : (s.entry d.entry).changeDetect = false ∨ d.check = none) : recordEnd d s =
    s.setEntry d.entry { s.entry d.entry with
      inst := none, lastOutcome := some d.outcome, lastLength := some d.replyLength } := by
  rcases hc with hc | hc
  · simp only [recordEnd, if_pos ((answersStation_iff _).2 ho), hc]
  · cases hdetect : (s.entry d.entry).changeDetect <;>
      simp only [recordEnd, if_pos ((answersStation_iff _).2 ho), hc, hdetect]

section
variable {c : Word16} (hc : (s.entry d.entry).changeDetect = true) (hcheck : d.check = some c)
include hc hcheck

theorem recordEnd_same (hsame : sameReply d.replyLength c (s.entry d.entry) = true) : recordEnd d s =
    s.setEntry d.entry { s.entry d.entry with
      inst := none, lastOutcome := some d.outcome, lastLength := some d.replyLength, lastCheck := some c } := by
  simp only [recordEnd, if_pos ((answersStation_iff _).2 ho), hc, hcheck, if_pos hsame]

theorem recordEnd_changed (hnew : ¬ sameReply d.replyLength c (s.entry d.entry) = true) : recordEnd d s =
    latch (s.entry d.entry).owner .pollChange (s.setEntry d.entry { s.entry d.entry with
      inst := none, lastOutcome := some d.outcome, lastLength := some d.replyLength, lastCheck := some c
      unreadChange := true }) := by
  simp only [recordEnd, if_pos ((answersStation_iff _).2 ho), hc, hcheck, if_neg hnew]

end

end

theorem takeInstEnd_recorded (hst : (s.entry d.entry).state = .armed) (ho : d.orphan = false) :
    takeInstEnd d s = recordEnd d (instEndTaken s) := by
  simp only [takeInstEnd, hst, ho, instEndTaken]

theorem takeInstEnd_freed
    (hst : (s.entry d.entry).state = .stopping ∨ ((s.entry d.entry).state = .armed ∧ d.orphan = true)) :
    takeInstEnd d s = freeEntry d.entry (instEndTaken s) := by
  rcases hst with hst | ⟨hst, ho⟩
  · simp only [takeInstEnd, hst, instEndTaken]
  · simp only [takeInstEnd, hst, ho, instEndTaken]

theorem takeInstEnd_unused (hst : (s.entry d.entry).state = .unused) : takeInstEnd d s = instEndTaken s := by
  simp only [takeInstEnd, hst, instEndTaken]

end

/-- Settles O36: an end that is recorded, by its outcome and by the reply it is compared with; then one that frees the entry. -/
theorem instanceEndIsRecordedOrStops : Obligations.InstanceEndIsRecordedOrStops := by
  intro d s hp hd
  rw [exec_instanceEnd hp hd]
  refine ⟨fun hst ho => ?_, fun hst => ⟨_, unlend_spec (.entry d.entry) (instEndTaken s), ?_⟩⟩
  · rw [takeInstEnd_recorded hst ho]
    refine ⟨fun hanswered hrefused => ?_, fun haccepted => ⟨fun hc => ?_, fun c hc hcheck => ⟨fun hsame => ?_, fun hnew => ?_⟩⟩⟩
    · rw [recordEnd_unanswered (not_or.2 ⟨hanswered, hrefused⟩)]
      rfl
    · rw [recordEnd_uncompared (s := instEndTaken s) haccepted (.inl hc)]
      rfl
    · rw [recordEnd_same (s := instEndTaken s) haccepted hc hcheck ((sameReply_iff _ _ _).2 hsame)]
      rfl
    · have hdiffers : ¬ sameReply d.replyLength c (s.entry d.entry) = true := by
        rw [sameReply_iff]
        rintro ⟨k, hk, hlength, hc | hc⟩
        · exact (hnew k hk hlength).1 hc
        · exact (hnew k hk hlength).2 hc
      rw [recordEnd_changed (s := instEndTaken s) haccepted hc hcheck hdiffers]
      rfl
  · rw [takeInstEnd_freed hst]
    rfl

/-! ## What INSTANCE_END leaves -/

section
variable (d : InstanceEnd) (s : State)

/-- The recording of an end writes the entry, and tells its owner of a change at most. -/
theorem recordEnd_writes : ∃ x, recordEnd d s = s.setEntry d.entry x
    ∨ recordEnd d s = latch (s.entry d.entry).owner .pollChange (s.setEntry d.entry x) := by
  by_cases ho : d.outcome = .answered ∨ d.outcome = .refused
  · cases hc : (s.entry d.entry).changeDetect with
    | false => exact ⟨_, .inl (recordEnd_uncompared ho (.inl hc))⟩
    | true =>
      cases hcheck : d.check with
      | none => exact ⟨_, .inl (recordEnd_uncompared ho (.inr hcheck))⟩
      | some c =>
        by_cases hsame : sameReply d.replyLength c (s.entry d.entry) = true
        · exact ⟨_, .inl (recordEnd_same ho hc hcheck hsame)⟩
        · exact ⟨_, .inr (recordEnd_changed ho hc hcheck hsame)⟩
  · exact ⟨_, .inl (recordEnd_unanswered ho)⟩

theorem takeInstEnd_leaves : ExchangeTable.SamePorts s (takeInstEnd d s) ∧ (takeInstEnd d s).hand.instEnd = none := by
  by_cases hrecorded : (s.entry d.entry).state = .armed ∧ d.orphan = false
  · obtain ⟨x, hx | hx⟩ := recordEnd_writes d (instEndTaken s) <;> rw [takeInstEnd_recorded hrecorded.1 hrecorded.2, hx]
    · exact ⟨⟨rfl, rfl, rfl⟩, rfl⟩
    · exact ⟨⟨rfl, rfl, rfl⟩, rfl⟩
  · cases hst : (s.entry d.entry).state with
    | unused =>
      rw [takeInstEnd_unused hst]
      exact ⟨⟨rfl, rfl, rfl⟩, rfl⟩
    | armed =>
      rw [takeInstEnd_freed (.inr ⟨hst, by simpa [hst] using hrecorded⟩)]
      exact ⟨⟨rfl, rfl, rfl⟩, rfl⟩
    | stopping =>
      rw [takeInstEnd_freed (.inl hst)]
      exact ⟨⟨rfl, rfl, rfl⟩, rfl⟩

end

/-! ## POLL_STOP (R67, R139, R140) -/

theorem exec_pollStop {h : HostId} {s : State} (hs : portServes h s = true) : exec (.pollStop h) s = .next (pollStop h s) :=
  served_next hs

section
variable {h : HostId} {e : EntryNo} {s : State}

theorem pollStop_badParam (ha : 16 ≤ (arg h 0 s).toNat) : pollStop h s = answer h .badParam s := by
  rw [pollStop, entryOf_none ha]

theorem settleInstEnd_none (hn : ∀ d, s.hand.instEnd = some d → d.entry ≠ e) : settleInstEnd e s = s := by
  unfold settleInstEnd
  split
  · rfl
  · next d hd => exact if_neg (hn d hd)

theorem settleInstEnd_takes {d : InstanceEnd} (hd : s.hand.instEnd = some d) (he : d.entry = e) :
    settleInstEnd e s = takeInstEnd d s := by
  simp [settleInstEnd, hd, he]

section
variable (ha : (arg h 0 s).toNat = e.val)
include ha

theorem pollStop_entry : pollStop h s =
    if notOwned h (s.entry e) then answer h .notOwner s else stopEntry h e (settleInstEnd e s) := by
  rw [pollStop, entryOf_some ha]

theorem pollStop_notOwner (hno : (s.entry e).state = .unused ∨ (s.entry e).owner ≠ h) :
    pollStop h s = answer h .notOwner s := by
  rw [pollStop_entry ha, if_pos ((StationRecords.notOwned_iff h _).2 hno)]

/-- With no end of the entry waiting, POLL_STOP is the stop of the entry as it stands. -/
theorem pollStop_settled (hn : ∀ d, s.hand.instEnd = some d → d.entry ≠ e) : pollStop h s = stopEntry h e s := by
  rw [pollStop_entry ha, settleInstEnd_none hn, stopEntry]
  split_ifs <;> rfl

/-- An end of the owner's entry that waits is taken first, and POLL_STOP then finds none (R140, log 7). -/
theorem pollStop_takes {d : InstanceEnd} (hown : notOwned h (s.entry e) = false) (hd : s.hand.instEnd = some d)
    (he : d.entry = e) : pollStop h s = pollStop h (takeInstEnd d s) := by
  obtain ⟨hports, hnone⟩ := takeInstEnd_leaves d s
  have hsettled : ∀ d', (takeInstEnd d s).hand.instEnd = some d' → d'.entry ≠ e := fun d' hd' => by
    rw [hnone] at hd'
    cases hd'
  rw [pollStop_settled (s := takeInstEnd d s) (by rw [hports.arg, ha]) hsettled, pollStop_entry ha, hown,
    settleInstEnd_takes hd he]
  rfl

end

theorem stopEntry_stopping (hst : (s.entry e).state = .stopping) (howner : (s.entry e).owner = h) :
    stopEntry h e s = answer h .deferred s := by
  simp [stopEntry, notOwned, hst, howner]

theorem stopEntry_armed (hst : (s.entry e).state = .armed) (howner : (s.entry e).owner = h) :
    stopEntry h e s = stopArmed h e s := by
  simp [stopEntry, notOwned, hst, howner]

theorem stopArmed_noInstance (hi : (s.entry e).inst = none) : stopArmed h e s = answer h .ok (freeEntry e s) := by
  simp only [stopArmed, hi]

section
variable {i : SlotNo} (hi : (s.entry e).inst = some i) (horigin : (s.slot i).origin = .poll e)
include hi horigin

theorem stopArmed_queued (hq : (s.slot i).state = .queued) :
    stopArmed h e s = answer h .ok (freeEntry e (s.setSlot i freeExchange)) := by
  simp [stopArmed, hi, runsFor, horigin, hq]

theorem stopArmed_active (hq : (s.slot i).state = .active) :
    stopArmed h e s = answer h .deferred (stopRunning e i s) := by
  simp [stopArmed, hi, runsFor, horigin, hq]

end

end

/-- Settles O35: an end of the entry's that waits, then the entry's state and the exchange it has. -/
theorem stopAnswersByTheInstance : Obligations.StopAnswersByTheInstance := by
  intro h s hs
  rw [exec_pollStop hs]
  refine ⟨fun ha => by rw [pollStop_badParam ha], fun e ha => ⟨fun hno => by rw [pollStop_notOwner ha hno],
    fun hst howner => ⟨fun d hd he u hu => ?_, fun hn => ?_⟩⟩⟩
  · rw [exec_instanceEnd ((FieldLine.portServes_iff h s).1 hs).1 hd] at hu
    obtain rfl := Host.Outcome.next.inj hu
    rw [exec_pollStop (((takeInstEnd_leaves d s).1.serves h).trans hs),
      pollStop_takes ha ((StationRecords.notOwned_false_iff h _).2 ⟨hst, howner⟩) hd he]
  · rw [pollStop_settled ha hn]
    refine ⟨fun hst => by rw [stopEntry_stopping hst howner], fun hst hi => ⟨_, unlend_spec (.entry e) s, ?_⟩,
      fun i hst hi horigin => ⟨fun hq => ⟨_, unlend_spec (.entry e) (s.setSlot i freeExchange), ?_⟩, fun hq => ?_⟩⟩
    · rw [stopEntry_armed hst howner, stopArmed_noInstance hi]
      rfl
    · rw [stopEntry_armed hst howner, stopArmed_queued hi horigin hq]
      rfl
    · rw [stopEntry_armed hst howner, stopArmed_active hi horigin hq]
      rfl

/-! ## PLST_RESET_PART (R142) -/

theorem exec_plstResetPart {h : HostId} {s : State} (hp : s.porst = false) (hr : (s.port h).phase = .releasing .plst) :
    exec (.plstResetPart h) s = .next (setPhase h (.releasing .stab) (resetEntries h s)) := by
  rw [show exec (.plstResetPart h) s = .next (plstResetPart h s) from internal_spec.1 hp, plstResetPart, releasePart,
    if_pos hr]

/-- Every entry after host `h`'s release, with no end of its instances waiting (R142). -/
def entriesReset (h : HostId) (s : State) : State :=
  { s with entries := tmap (fun e x => resetEntry h (entryRuns e s) x) s.entries }

section
variable {h : HostId} {s : State}

theorem entriesReset_entry (e : EntryNo) :
    (entriesReset h s).entry e = resetEntry h (entryRuns e s) (s.entry e) := tget_tmap _ _ e

theorem resetEntries_settled (hn : ∀ d, s.hand.instEnd = some d → (s.entry d.entry).owner ≠ h) :
    resetEntries h s = entriesReset h s := by
  have hsettled : settleOwnInstEnd h s = s := by
    unfold settleOwnInstEnd
    split
    · rfl
    · next d hd => exact if_neg (hn d hd)
  rw [resetEntries, hsettled, entriesReset]

/-- An end of the host's that waits is taken first, and the release's part then finds none (log 7). -/
theorem resetEntries_takes {d : InstanceEnd} (hd : s.hand.instEnd = some d) (ho : (s.entry d.entry).owner = h) :
    resetEntries h s = resetEntries h (takeInstEnd d s) := by
  have hsettled : settleOwnInstEnd h s = takeInstEnd d s := by simp [settleOwnInstEnd, hd, ho]
  rw [resetEntries_settled (s := takeInstEnd d s), resetEntries, hsettled, entriesReset]
  intro d' hd'
  rw [(takeInstEnd_leaves d s).2] at hd'
  cases hd'

end

section
variable {h : HostId} {runs : Bool} {x : PollEntry}

theorem resetEntry_other (ho : x.owner ≠ h) : resetEntry h runs x = x := if_pos ho

theorem resetEntry_unused (hst : x.state = .unused) : resetEntry h runs x = x := by simp [resetEntry, hst]

theorem resetEntry_stopping (ho : x.owner = h) (hst : x.state = .stopping) :
    resetEntry h runs x = { x with unreadChange := false } := by simp [resetEntry, ho, hst]

theorem resetEntry_armed (ho : x.owner = h) (hst : x.state = .armed) : resetEntry h runs x =
    if runs then { x with state := .stopping, unreadChange := false, tickWaiting := false } else unusedEntry := by
  simp [resetEntry, ho, hst]

end

/-- Settles O58: an end of the host's that waits, then each entry by its owner, its state and whether its exchange is on the line. -/
theorem releaseAtThePollList : Obligations.ReleaseAtThePollList := by
  intro h s hp hr
  rw [exec_plstResetPart hp hr]
  refine ⟨?_, fun hn => ⟨_, congrArg _ (congrArg _ (resetEntries_settled hn)), ?_, fun k hk => ?_, fun e => ?_, rfl⟩⟩
  · rintro ⟨d, hd, ho⟩ u hu
    rw [exec_instanceEnd hp hd] at hu
    obtain rfl := Host.Outcome.next.inj hu
    have hports := (takeInstEnd_leaves d s).1
    have hport : (takeInstEnd d s).port h = s.port h := congrArg (tget · h) hports.ports
    rw [exec_plstResetPart (hports.porst.trans hp) (by rw [hport, hr]), resetEntries_takes hd ho]
  · exact (State.setPort_port _ h _ h).trans (if_pos rfl)
  · exact (State.setPort_port _ h _ k).trans (if_neg hk.symm)
  · have hruns := BufferPool.entryRuns_iff s e
    have hentry := entriesReset_entry (h := h) (s := s) e
    exact ⟨fun ho => hentry.trans (resetEntry_other ho), fun ho => ⟨fun hst => hentry.trans (resetEntry_unused hst),
      fun hst => hentry.trans (resetEntry_stopping ho hst),
      fun hst hon => hentry.trans ((resetEntry_armed ho hst).trans (if_pos (hruns.2 hon))),
      fun hst hoff => hentry.trans ((resetEntry_armed ho hst).trans (if_neg (mt hruns.1 hoff)))⟩⟩

end Sys2Proof.PollList
end

section
/-! POLL_START (R130, R131), a tick's claim at a countdown (R132, R133) and POLL_RETIME (R134, R138). -/

namespace Sys2Proof.PollList

open Sys2Proof.Machine

/-! ## The checks of POLL_START (R130) -/

theorem stationOf_isNone_iff (b : Byte) : (stationOf b).isNone = true ↔ ¬ (1 ≤ b.toNat ∧ b.toNat ≤ 31) := by
  unfold stationOf
  split <;> simp_all

theorem toNat_pos_iff (b : Byte) : 0 < b.toNat ↔ b ≠ 0 := by
  rw [Nat.pos_iff_ne_zero, ne_eq, ne_eq, ← BitVec.toNat_inj]
  rfl

section
variable {h : HostId} {s : State}

theorem unusedSlot_spec (e : EntryNo) :
    unusedSlot s = some e ↔ (s.entry e).state = .unused ∧ ∀ m, m < e → (s.entry m).state ≠ .unused := by
  rw [unusedSlot, tfind_eq_some]
  simp [State.entry]

theorem unusedSlot_none_iff : unusedSlot s = none ↔ ¬ ∃ e, (s.entry e).state = .unused := by
  rw [unusedSlot, tfind_eq_none]
  simp [State.entry]

theorem pollStartRefusal_of_checks {r : Option ResultCode} (hf : firstFailure (pollStartChecks h s) r) :
    pollStartRefusal h s = r := by
  refine ExchangeTable.firstFailure_test ?_ hf fun hf => ExchangeTable.firstFailure_test ?_ hf fun hf =>
    ExchangeTable.firstFailure_test ?_ (ExchangeTable.firstFailure_both hf) fun hf =>
    ExchangeTable.firstFailure_test ?_ (ExchangeTable.firstFailure_both hf) fun hf =>
    ExchangeTable.firstFailure_test ?_ hf fun hf => hf.symm
  · rw [stationOf_isNone_iff, ExchangeTable.classOf_none_iff]
    simp only [not_and_or, not_le, ne_eq, not_not, or_assoc]
  · rw [toNat_pos_iff, not_or, not_not]
  · simp only [Bool.not_eq_true', ← Bool.not_eq_true, Bool.and_eq_true, ExchangeTable.fieldHeld_iff]
  · simp only [Bool.not_eq_true', ← Bool.not_eq_true, Bool.and_eq_true, ExchangeTable.fieldUnlent_iff]
  · rw [Option.isNone_iff_eq_none, unusedSlot_none_iff]

/-! ## POLL_START (R131) -/

theorem exec_pollStart (hs : portServes h s = true) : exec (.pollStart h) s = .next (pollStart h s) := served_next hs

theorem pollStart_refused {r : ResultCode} (hr : pollStartRefusal h s = some r) : pollStart h s = answer h r s := by
  rw [pollStart, hr]

theorem pollStart_accepted {e : EntryNo} (hr : pollStartRefusal h s = none) (he : unusedSlot s = some e) :
    pollStart h s = answerWith h .ok 11 [natByte e.val] (arm h e s) := by
  rw [pollStart, hr, he]

/-- An entry armed with first delay 0 falls due at once. -/
theorem arm_spec (e : EntryNo) : ∃ t, Lent (.entry e) (pollStartEntry h s).requestBuffer (pollStartEntry h s).snapshotBuffer
      (s.setEntry e (pollStartEntry h s)) t
    ∧ (arg16 h 8 9 s ≠ 0 → arm h e s = t) ∧ (arg16 h 8 9 s = 0 → FellDue e t (arm h e s)) := by
  refine ⟨_, lend_spec (.entry e) _ _ _, fun hfirst => if_neg hfirst, fun hfirst => ?_⟩
  rw [arm, if_pos (show (pollStartEntry h s).countdown = 0 from hfirst)]
  exact due_spec e _

end

/-- Settles O33: the first check that fails; then the entry armed, its buffers lent to it, and the due of a first delay of 0. -/
theorem pollStartArmsTheLowestEntry : Obligations.PollStartArmsTheLowestEntry := by
  refine ⟨fun h r s hs hf => ?_, fun h e a c q p s hs hf he hlow ha hc hq hp => ?_⟩
  · rw [exec_pollStart hs, pollStart_refused (pollStartRefusal_of_checks hf)]
  · obtain ⟨t, hlent, hlater, hdue⟩ := arm_spec (h := h) (s := s) e
    refine ⟨t, arm h e s, ?_, hlater, hdue, ?_⟩
    · rw [pollStartEntry, hc, ExchangeTable.classOf_classByte, ExchangeTable.addressOf_some ha,
        ExchangeTable.bufferField_getD hq, ExchangeTable.bufferField_getD hp] at hlent
      exact hlent
    · rw [exec_pollStart hs, pollStart_accepted (pollStartRefusal_of_checks hf) ((unusedSlot_spec e).2 ⟨he, hlow⟩)]

/-! ## POLL_DUE with a tick's claim that waits (R132, R133) -/

theorem exec_pollDue {e : EntryNo} {s : State} (hp : s.porst = false) : exec (.pollDue e) s = .next (pollDue e s) :=
  internal_spec.1 hp

section
variable {e : EntryNo} {s : State} (hst : (s.entry e).state = .armed) (hw : (s.entry e).tickWaiting = true)
include hst hw

theorem pollDue_lowers (hc : (s.entry e).countdown ≠ 1) : pollDue e s =
    s.setEntry e { s.entry e with countdown := (s.entry e).countdown - 1, tickWaiting := false } := by
  simp only [pollDue, hw, tickEntry, hst, if_true, if_neg (sub_ne_zero.2 hc)]

theorem pollDue_last (hc : (s.entry e).countdown = 1) : pollDue e s =
    due e (s.setEntry e { s.entry e with countdown := 0, tickWaiting := false }) := by
  simp only [pollDue, hw, tickEntry, hst, if_true, hc, sub_self]

end

/-! ## POLL_RETIME (R134, R138) -/

section
variable {h : HostId} {e : EntryNo} {s : State}

theorem exec_pollRetime (hs : portServes h s = true) : exec (.pollRetime h) s = .next (pollRetime h s) := served_next hs

theorem pollRetime_badParam (hb : 16 ≤ (arg h 0 s).toNat ∨ arg16 h 1 2 s = 0) : pollRetime h s = answer h .badParam s := by
  unfold pollRetime
  split
  · rfl
  · next e he =>
    have hnumber : ¬ 16 ≤ (arg h 0 s).toNat := fun h16 => by simp [entryOf_none h16] at he
    exact if_pos (hb.resolve_left hnumber)

section
variable (ha : (arg h 0 s).toNat = e.val) (hperiod : arg16 h 1 2 s ≠ 0)
include ha hperiod

theorem pollRetime_entry : pollRetime h s = if notOwned h (s.entry e) then answer h .notOwner s
    else if (s.entry e).state = .stopping then answer h .notNow s
    else answer h .ok (retime e (arg16 h 1 2 s) (arg16 h 3 4 s) s) := by
  rw [pollRetime, entryOf_some ha]
  exact if_neg hperiod

theorem pollRetime_notOwner (hno : (s.entry e).state = .unused ∨ (s.entry e).owner ≠ h) :
    pollRetime h s = answer h .notOwner s := by
  rw [pollRetime_entry ha hperiod, if_pos ((StationRecords.notOwned_iff h _).2 hno)]

theorem pollRetime_stopping (hst : (s.entry e).state = .stopping) (howner : (s.entry e).owner = h) :
    pollRetime h s = answer h .notNow s := by
  simp [pollRetime_entry ha hperiod, notOwned, hst, howner]

theorem pollRetime_armed (hst : (s.entry e).state = .armed) (howner : (s.entry e).owner = h) :
    pollRetime h s = answer h .ok (retime e (arg16 h 1 2 s) (arg16 h 3 4 s) s) := by
  simp [pollRetime_entry ha hperiod, notOwned, hst, howner]

end

theorem retime_later {period first : Word16} (hf : first ≠ 0) :
    retime e period first s = s.setEntry e { s.entry e with period := period, countdown := first } := if_neg hf

theorem retime_atOnce (period : Word16) :
    retime e period 0 s = due e (s.setEntry e { s.entry e with period := period, countdown := 0 }) := by
  rw [retime, if_pos rfl]

end

/-- Settles O34: the tick's claim that waits at an entry; then POLL_RETIME by its arguments, the entry's owner and its state. -/
theorem dueAndRetime : Obligations.DueAndRetime := by
  refine ⟨fun e s hp hst hw => ?_, fun h s hs => ?_⟩
  · rw [exec_pollDue hp]
    exact ⟨fun hc => by rw [pollDue_lowers hst hw hc], fun hc => ⟨_, due_spec e _, by rw [pollDue_last hst hw hc]⟩⟩
  · rw [exec_pollRetime hs]
    refine ⟨fun hb => by rw [pollRetime_badParam hb], fun e ha hperiod =>
      ⟨fun hno => by rw [pollRetime_notOwner ha hperiod hno], fun hst howner => by rw [pollRetime_stopping ha hperiod hst howner],
      fun hst howner => ?_⟩⟩
    rw [pollRetime_armed ha hperiod hst howner]
    exact ⟨fun hfirst => by rw [retime_later hfirst], fun hfirst => ⟨_, due_spec e _, by rw [hfirst, retime_atOnce]⟩⟩

end Sys2Proof.PollList
end

section
/-! The completion queues (R71, R144, R147, R150) and the notice masks (R155): POP_COMPLETION with the backlog's oldest exchange, NOTICE_MASK_WRITE, and the last three parts of a port reset's release (R157, R176). -/

namespace Sys2Proof.CompletionQueues

open Sys2Proof.Machine

/-! ## NOTICE_MASK_WRITE (R151, R155) -/

/-- Settles O15: the mask is the byte written, and latches, outputs and the read follow from that. -/
theorem noticeMaskWriteReplacesTheMask : Obligations.NoticeMaskWriteReplacesTheMask := by
  intro h v s hs
  have hwritten : (s.setNotice h ⟨(s.notice h).pending, v⟩).notice h = ⟨(s.notice h).pending, v⟩ := by simp
  refine ⟨_, served_next hs, rfl, ?_, ?_, ?_⟩
  · exact congrArg (fun c : NoticeCtl => some c.mask) hwritten
  · exact congrArg activeBits hwritten
  · exact congrArg (fun c => decide (activeBits c ≠ 0)) hwritten

/-! ## The backlog (R71) -/

section
variable {h : HostId} {s : State}

theorem mem_backlog {i : SlotNo} : i ∈ tfilter (fun _ x => inBacklog h x) s.slots ↔
    (s.slot i).state = .done ∧ (s.slot i).origin = .host ∧ (s.slot i).owner = h := by
  have hslot : tget s.slots i = s.slot i := rfl
  simp only [tfilter, List.mem_filter, List.mem_finRange, true_and, inBacklog, Bool.and_eq_true, decide_eq_true_eq, hslot]
  tauto

theorem oldestBacklog_owner {i : SlotNo} (hi : oldestBacklog h s = some i) : (s.slot i).owner = h :=
  (mem_backlog.1 (oldest_some _ _ hi).1).2.2

theorem oldestBacklog_none (hn : ∀ i, (s.slot i).state = .done → (s.slot i).origin = .host → (s.slot i).owner ≠ h) :
    oldestBacklog h s = none := by
  cases hi : oldestBacklog h s with
  | none => rfl
  | some i =>
    obtain ⟨hdone, horigin, howner⟩ := mem_backlog.1 (oldest_some _ _ hi).1
    exact absurd howner (hn i hdone horigin)

/-- The one exchange of a backlog whose finish number is of the greatest age (R60). -/
theorem oldestBacklog_some {i : SlotNo} {f : Word16} (hdone : (s.slot i).state = .done) (horigin : (s.slot i).origin = .host)
    (howner : (s.slot i).owner = h) (hf : (s.slot i).finish = some f)
    (hyounger : ∀ j g, j ≠ i → (s.slot j).state = .done → (s.slot j).origin = .host → (s.slot j).owner = h →
      (s.slot j).finish = some g → finishAge s g < finishAge s f)
    (hnumbered : ∀ j, (s.slot j).state = .done → (s.slot j).origin = .host → (s.slot j).finish ≠ none) :
    oldestBacklog h s = some i := by
  refine oldest_unique (mem_backlog.2 ⟨hdone, horigin, howner⟩) fun j hj hji => ?_
  obtain ⟨hjdone, hjorigin, hjowner⟩ := mem_backlog.1 hj
  obtain ⟨g, hg⟩ := Option.ne_none_iff_exists'.1 (hnumbered j hjdone hjorigin)
  simpa only [hg, hf, Option.getD_some] using hyounger j g hji hjdone hjorigin hjowner hg

/-! ## POP_COMPLETION (R147) -/

theorem exec_popCompletion (hs : portServes h s = true) : exec (.popCompletion h) s = .next (popCompletion h s) :=
  served_next hs

theorem popCompletion_empty (hq : s.queue h = []) : popCompletion h s = answer h .empty s := by
  rw [popCompletion, hq]

section
variable {c : Completion} {rest : List Completion}

/-- The head is returned, and the place it leaves is offered to the backlog, which is the same without it. -/
theorem popCompletion_head (hq : s.queue h = c :: rest) :
    popCompletion h s = answerWith h .ok 0 (completionCopy c) (postFromBacklog h (s.setQueue h rest)) := by
  rw [popCompletion, hq]

theorem postFromBacklog_none (hn : oldestBacklog h s = none) : postFromBacklog h s = s := by
  rw [postFromBacklog, hn]

/-- The oldest of the backlog joins its host's queue and leaves the table. -/
theorem postFromBacklog_some {i : SlotNo} (hi : oldestBacklog h s = some i) : postFromBacklog h s =
    (latch h .completion (s.setQueue h (s.queue h ++ [completionOf i (s.slot i)]))).setSlot i freeExchange := by
  rw [postFromBacklog, hi]
  exact congrArg (fun k => (latch k .completion (s.setQueue k (s.queue k ++ [completionOf i (s.slot i)]))).setSlot i freeExchange)
    (oldestBacklog_owner hi)

theorem setQueue_setQueue (q r : List Completion) : (s.setQueue h q).setQueue h r = s.setQueue h r := by
  simp [State.setQueue]

theorem postFromBacklog_popped {i : SlotNo} (hi : oldestBacklog h s = some i) : postFromBacklog h (s.setQueue h rest) =
    (latch h .completion (s.setQueue h (rest ++ [completionOf i (s.slot i)]))).setSlot i freeExchange := by
  have hpopped : oldestBacklog h (s.setQueue h rest) = some i := hi
  have hqueue : (s.setQueue h rest).queue h = rest := by simp
  rw [postFromBacklog_some hpopped, setQueue_setQueue, hqueue]
  rfl

end

end

/-- Settles O32, by the queue and then by the backlog. -/
theorem popReturnsTheHeadAndPostsTheOldest : Obligations.PopReturnsTheHeadAndPostsTheOldest := by
  intro h s hs
  rw [exec_popCompletion hs]
  refine ⟨fun hq => by rw [popCompletion_empty hq], fun c rest hq => ?_⟩
  rw [popCompletion_head hq]
  refine ⟨fun hn => ?_, fun i f hdone horigin howner hf hyounger hnumbered => ?_⟩
  · have hpopped : oldestBacklog h (s.setQueue h rest) = none := oldestBacklog_none hn
    rw [postFromBacklog_none hpopped]
  · rw [postFromBacklog_popped (oldestBacklog_some hdone horigin howner hf hyounger hnumbered)]
    rfl

/-! ## The last parts of a release (R150, R157, R176) -/

section
variable {h : HostId} {s : State}

/-- A part of a release that is the next one is taken (R176). -/
theorem internal_releasePart {part next : ReleasePart} {act : State → State} (hp : s.porst = false)
    (hr : (s.port h).phase = .releasing part) :
    internal s (releasePart h part next act) = .next (setPhase h (.releasing next) (act s)) := by
  rw [internal_spec.1 hp, releasePart, if_pos hr]

/-- The port as its own part of the release leaves it (R176). -/
def releasedPort (p : Port) : Port :=
  { freshPort with
    data := p.data, waiting := p.waiting, pin := p.pin, phase := afterRelease p.edges, edges := p.edges - 2 }

theorem exec_portResetPart (hp : s.porst = false) (hr : (s.port h).phase = .releasing .port) :
    exec (.portResetPart h) s = .next (s.setPort h (releasedPort (s.port h))) := by
  rw [show exec (.portResetPart h) s = .next (portResetPart h s) from internal_spec.1 hp, portResetPart]
  exact congrArg Host.Outcome.next (if_pos hr)

theorem afterRelease_again {edges : Nat} (he : 2 ≤ edges) : afterRelease edges = .releasing .xtab := by
  rw [afterRelease, if_neg (by omega), if_neg (by omega)]

/-- A released port with no access to serve first serves at once (R169, R176). -/
theorem portServes_released (hp : s.porst = false) (he : (s.port h).edges = 0) (hw : (s.port h).waiting = [])
    (hn : ¬ AccessInService h s) : portServes h (s.setPort h (releasedPort (s.port h))) = true := by
  rw [FieldLine.portServes_iff, State.setPort_port, if_pos rfl]
  exact ⟨hp, by rw [releasedPort, he]; rfl, rfl, hn, hw⟩

/-- No access is served before a release has been taken whole (R176). -/
theorem portServes_releasing {part : ReleasePart} (hr : (s.port h).phase = .releasing part) : portServes h s = false := by
  simp [portServes, hr]

end

/-- Settles O60, part by part; what the port does next is by the pin edges that waited. -/
theorem releaseAtQueueNoticesAndPort : Obligations.ReleaseAtQueueNoticesAndPort := by
  intro h s hp
  refine ⟨internal_releasePart hp, internal_releasePart hp, fun hr => ?_, fun _ => portServes_releasing⟩
  have hport : (s.setPort h (releasedPort (s.port h))).port h = releasedPort (s.port h) := by simp
  refine ⟨_, exec_portResetPart hp hr, fun k hk => by simp [hk.symm], rfl, ?_⟩
  simp only [arg, hport]
  refine ⟨rfl, rfl, fun k => tget_replicate _ k, rfl, rfl, rfl, rfl, rfl, fun he => ⟨?_, ?_, ?_⟩, fun he => ?_, fun he => ?_⟩
  · rw [releasedPort, he]; rfl
  · rw [releasedPort, he]
  · exact portServes_released hp he
  · rw [releasedPort, he]; rfl
  · exact ⟨afterRelease_again he, rfl⟩

end Sys2Proof.CompletionQueues
end

section
/-! What leaves the completion queues and the settings alone: the work of every block but an entry into DONE, a pop, a queue's reset and the settings' own events (R144, R159). -/

namespace Sys2Proof.CompletionQueues

open Sys2Proof.Machine

/-! ## The queues and the settings of a state -/

/-- The completion queues, and the settings record with the one that is pending (R144, R159). -/
structure Stores where
  queues : Table (List Completion) 4
  active : Settings
  staged : Option Settings

def stores (s : State) : Stores := ⟨s.queues, s.active, s.staged⟩

theorem stores_of_lineOnly {s t : State} (h : ExchangeTable.LineOnly s t) : stores t = stores s := by
  rw [← h]
  rfl

theorem stores_of_tableOnly {s t : State} (h : StationRecords.TableOnly s t) : stores t = stores s := by
  rw [← h]
  rfl

/-- A pass over a list leaves the stores if each of its steps does. -/
theorem stores_foldl {α : Type} {f : State → α → State} (hf : ∀ s a, stores (f s a) = stores s) :
    ∀ (l : List α) (s : State), stores (l.foldl f s) = stores s
  | [], _ => rfl
  | a :: l, s => (stores_foldl hf l (f s a)).trans (hf s a)

section
variable (s : State)

/-- A choice between two states that leave the stores leaves them. -/
theorem stores_ite {p : Prop} [Decidable p] {t u : State} (ht : stores t = stores s) (hu : stores u = stores s) :
    stores (if p then t else u) = stores s := by
  split
  · exact ht
  · exact hu

@[simp] theorem stores_answer (h : HostId) (r : ResultCode) : stores (answer h r s) = stores s := rfl
@[simp] theorem stores_setStats (x : Stats) : stores (s.setStats x) = stores s := rfl
@[simp] theorem stores_setEngine (e : Engine) : stores (s.setEngine e) = stores s := rfl
@[simp] theorem stores_latchAll (src : NoticeSource) : stores (latchAll src s) = stores s := rfl
@[simp] theorem stores_stopTimer : stores (stopTimer s) = stores s := rfl
@[simp] theorem stores_enterQuiet (frame : Bool) : stores (enterQuiet frame s) = stores s := rfl
@[simp] theorem stores_enterStuck : stores (enterStuck s) = stores s := rfl

/-! ## The Buffer Pool and the Exchange Table -/

theorem stores_bufAlloc (h : HostId) : stores (bufAlloc h s) = stores s := by
  refine stores_ite s rfl ?_
  split
  · rfl
  · exact stores_ite s rfl rfl

theorem stores_bufFree (h : HostId) : stores (bufFree h s) = stores s := by
  unfold bufFree
  split
  · rfl
  · exact stores_ite s rfl (stores_ite s rfl rfl)

theorem stores_serveClaim (h : HostId) (c : PortClaim) : stores (serveClaim h c s) = stores s := by
  cases c with
  | read offset => simp only [serveClaim, serveRead]; split <;> rfl
  | write offset value => simp only [serveClaim, serveWrite]; split <;> rfl
  | clear b owned free => rfl

theorem stores_submit (h : HostId) : stores (submit h s) = stores s := by
  unfold submit
  split
  · rfl
  · split <;> rfl

theorem stores_readExchange (h : HostId) : stores (readExchange h s) = stores s := by
  unfold readExchange
  split
  · rfl
  · exact stores_ite s rfl rfl

theorem stores_resetSlots (h : HostId) : stores (resetSlots h s) = stores s := by
  refine stores_foldl (fun t i => stores_ite t rfl ?_) _ s
  split <;> rfl

/-! ## The Station Table -/

theorem stores_readStation (h : HostId) : stores (readStation h s) = stores s := by
  unfold readStation
  split <;> rfl

theorem stores_subscribe (h : HostId) : stores (subscribe h s) = stores s := by
  unfold subscribe
  split
  · rfl
  · exact stores_ite s rfl rfl

theorem stores_unsubscribe (h : HostId) : stores (unsubscribe h s) = stores s := by
  unfold unsubscribe
  split
  · rfl
  · exact stores_ite s rfl rfl

theorem stores_exchangeEndReport : stores (exchangeEndReport s) = stores s := by
  have htaken (r : EndReport) : stores (takeReport r s) = stores s := by
    rw [StationRecords.takeReport_eq]
    exact stores_of_tableOnly (StationRecords.announced_table r s)
  unfold exchangeEndReport
  split
  · rfl
  · exact stores_ite s rfl (htaken _)

theorem stores_handOver (n : StationNo) : stores (handOver n s) = stores s := by
  cases hk : (s.station n).hold with
  | none => rw [handOver, hk]
  | some k =>
    obtain ⟨hold, -, hreplaced⟩ := StationRecords.handOver_replaces hk
    exact stores_of_tableOnly hreplaced.table

theorem stores_hold (h : HostId) : stores (hold h s) = stores s := by
  unfold hold
  split
  · rfl
  · refine stores_ite s rfl ?_
    unfold holdStation
    simp only []
    split
    · exact stores_ite s rfl rfl
    · exact stores_ite s rfl (stores_ite s rfl (stores_ite s rfl rfl))

theorem stores_release (h : HostId) : stores (release h s) = stores s := by
  unfold release
  split
  · rfl
  · unfold releaseStation
    simp only []
    split
    · rfl
    · exact stores_ite s (stores_handOver s _) (stores_ite s rfl rfl)

theorem stores_leaseExpiry (n : StationNo) : stores (leaseExpiry n s) = stores s := by
  have hexpired (k : Hold) (t : State) : stores (expire n k t) = stores t := stores_handOver _ n
  have htick (t : State) : stores (tickLease n t) = stores t := by
    unfold tickLease
    split
    · rfl
    · exact stores_ite t (hexpired _ t) rfl
  unfold leaseExpiry
  split
  · rfl
  · exact stores_ite s (hexpired _ s) (stores_ite s rfl (htick _))

theorem stores_resetStations (h : HostId) : stores (resetStations h s) = stores s :=
  stores_foldl (fun t n => stores_ite t (stores_handOver t n) rfl) _ _

/-! ## The Poll List -/

theorem stores_due (e : EntryNo) : stores (due e s) = stores s := by
  have hcreated {i : SlotNo} {t : State} (hc : createInstance e s = some (i, t)) : stores t = stores s := by
    unfold createInstance at hc
    split_ifs at hc
    split at hc
    · cases hc
    · cases hc
      rfl
  refine stores_ite s rfl (stores_ite s rfl ?_)
  split
  · next i t hc => exact Eq.trans (b := stores t) rfl (hcreated hc)
  · rfl

theorem stores_pollDue (e : EntryNo) : stores (pollDue e s) = stores s := by
  have htick (t : State) : stores (tickEntry e t) = stores t := stores_ite t (stores_ite t (stores_due _ e) rfl) rfl
  exact stores_ite s (htick s) (stores_ite s rfl (htick _))

theorem stores_pollStart (h : HostId) : stores (pollStart h s) = stores s := by
  have harmed (e : EntryNo) : stores (arm h e s) = stores s := stores_ite s (stores_due _ e) rfl
  unfold pollStart
  split
  · rfl
  · split
    · rfl
    · exact harmed _

theorem stores_pollRetime (h : HostId) : stores (pollRetime h s) = stores s := by
  have hretimed (e : EntryNo) (period first : Word16) : stores (retime e period first s) = stores s :=
    stores_ite s (stores_due _ e) rfl
  unfold pollRetime
  split
  · rfl
  · exact stores_ite s rfl (stores_ite s rfl (stores_ite s rfl (hretimed _ _ _)))

theorem stores_takeInstEnd (d : InstanceEnd) : stores (takeInstEnd d s) = stores s := by
  unfold takeInstEnd
  simp only []
  split
  · refine stores_ite s ?_ rfl
    split
    · exact stores_ite s rfl rfl
    · rfl
  all_goals rfl

theorem stores_instanceEnd : stores (instanceEnd s) = stores s := by
  unfold instanceEnd
  split
  · rfl
  · exact stores_takeInstEnd s _

theorem stores_pollStop (h : HostId) : stores (pollStop h s) = stores s := by
  have hsettled (e : EntryNo) : stores (settleInstEnd e s) = stores s := by
    unfold settleInstEnd
    split
    · rfl
    · exact stores_ite s (stores_takeInstEnd s _) rfl
  have hstopped (e : EntryNo) (t : State) : stores (stopEntry h e t) = stores t := by
    refine stores_ite t rfl (stores_ite t rfl ?_)
    unfold stopArmed
    split
    · rfl
    · exact stores_ite t rfl (stores_ite t rfl rfl)
  unfold pollStop
  split
  · rfl
  · exact stores_ite s rfl ((hstopped _ _).trans (hsettled _))

theorem stores_readPoll (h : HostId) : stores (readPoll h s) = stores s := by
  unfold readPoll
  split <;> rfl

theorem stores_resetEntries (h : HostId) : stores (resetEntries h s) = stores s := by
  have hsettled : stores (settleOwnInstEnd h s) = stores s := by
    unfold settleOwnInstEnd
    split
    · rfl
    · exact stores_ite s (stores_takeInstEnd s _) rfl
  exact hsettled

/-! ## Attempts of the Line Engine (R96, R103 to R105) -/

theorem stores_beginAttempt (i : SlotNo) (first : Bool) : stores (beginAttempt i first s) = stores s :=
  (stores_of_lineOnly (ExchangeTable.takeOrder_lineOnly _ _)).trans rfl

theorem stores_attemptEnd (r : AttemptResult) : stores (attemptEnd r s) = stores s := by
  unfold attemptEnd
  split
  · rfl
  · exact stores_ite s rfl rfl

theorem stores_replyTimerExpiry : stores (replyTimerExpiry s) = stores s := by
  have hexpired (t : State) : stores (noReply t) = stores t := by simp [noReply, stores_attemptEnd]
  have htick (t : State) : stores (tickTimer t) = stores t := stores_ite t (stores_ite t (hexpired t) rfl) rfl
  exact stores_ite s (htick s) (stores_ite s rfl (htick _))

theorem stores_lineReset (h : HostId) : stores (lineReset h s) = stores s := by
  unfold lineReset
  split
  case h_3 => exact stores_ite s ((stores_of_lineOnly (ExchangeTable.cut_lineOnly _)).trans rfl) rfl
  case h_4 => exact (stores_attemptEnd _ _).trans rfl
  case h_5 => exact (stores_attemptEnd _ _).trans rfl
  all_goals rfl

theorem stores_schedulerRun : stores (schedulerRun s) = stores s := by
  refine stores_ite s (stores_ite s ?_ rfl) rfl
  simp only []
  split
  · rfl
  · exact (stores_beginAttempt _ _ true).trans rfl

theorem stores_arbiterServe : stores (arbiterServe s) = stores s := by
  rcases arbiterServe_cases s with ⟨-, h⟩ | ⟨c, -, -, h⟩ | ⟨k, c, -, -, -, -, h⟩ | ⟨-, -, -, h⟩ <;> rw [h]
  · cases c with
    | fetch b offset => rfl
    | copy b length => exact (stores_attemptEnd _ _).trans rfl
  · exact (stores_serveClaim _ k c).trans rfl

/-! ## The reports that the Line Engine takes -/

theorem stores_takeSent : stores (takeSent s) = stores s := by
  unfold takeSent sentInSending
  simp only []
  split
  · split
    · exact (stores_attemptEnd _ _).trans rfl
    · exact stores_ite s ((stores_attemptEnd _ _).trans rfl) rfl
  · rfl

theorem stores_takeFrameStart : stores (takeFrameStart s) = stores s := by
  unfold takeFrameStart
  split <;> rfl

theorem stores_strayEnd (count : Stats → Stats) : stores (strayEnd count s) = stores s :=
  stores_ite s rfl (stores_ite s rfl rfl)

theorem stores_acceptFrame (i : SlotNo) (f : FrameInfo) : stores (acceptFrame i f s) = stores s := by
  have hkept : stores (BufferPool.replyKept i f s) = stores s := by simp [BufferPool.replyKept]
  have hclaimed (b : BufNo) (t : State) : stores (BufferPool.copyClaimed b f.length t) = stores t := rfl
  by_cases h : (s.slot i).replyBuffer = none ∨ f.length = 0
  · rw [BufferPool.acceptFrame_ends h]
    exact (stores_attemptEnd _ _).trans hkept
  · obtain ⟨hb, hf⟩ := not_or.1 h
    obtain ⟨b, hb⟩ := Option.ne_none_iff_exists'.1 hb
    rw [BufferPool.acceptFrame_claims hb hf]
    exact (hclaimed b _).trans hkept

theorem stores_takeFrameComplete (f : FrameInfo) : stores (takeFrameComplete f s) = stores s := by
  unfold takeFrameComplete completeInReceiving
  split
  · split
    · rfl
    · rfl
    · exact stores_acceptFrame s _ f
  · exact stores_strayEnd s id

theorem stores_takeBadFrame (r : BadReason) : stores (takeBadFrame r s) = stores s := by
  unfold takeBadFrame badInReceiving
  split
  · simp [stores_attemptEnd]
  · exact stores_strayEnd s _

theorem stores_takeStuck : stores (takeStuck s) = stores s := by
  unfold takeStuck
  simp only []
  split
  case h_4 => simp [stores_attemptEnd]
  case h_5 => simp [stores_attemptEnd]
  all_goals simp

/-- A report taken leaves the stores if what takes it does. -/
theorem stores_withReport {act : Report → State → Option State} (h : ∀ r t u, act r t = some u → stores u = stores t) :
    stores (withReport s act) = stores s := by
  unfold withReport
  split
  · rfl
  · next r rest _ =>
    cases hu : act r (s.setLif { s.lif with reports := rest }) with
    | none => rfl
    | some u => exact (h _ _ _ hu).trans rfl

theorem stores_sentReport : stores (sentReport s) = stores s := by
  refine stores_withReport s fun r t u hu => ?_
  cases r <;> cases hu
  exact stores_takeSent t

theorem stores_collisionReport : stores (collisionReport s) = stores s := by
  refine stores_withReport s fun r t u hu => ?_
  cases r <;> cases hu
  exact stores_ite t (by simp) rfl

theorem stores_cutCompleteReport : stores (cutCompleteReport s) = stores s := by
  refine stores_withReport s fun r t u hu => ?_
  cases r <;> cases hu
  exact stores_ite t ((stores_attemptEnd _ _).trans rfl) rfl

theorem stores_frameStartReport : stores (frameStartReport s) = stores s := by
  refine stores_withReport s fun r t u hu => ?_
  cases r <;> cases hu
  exact stores_takeFrameStart t

theorem stores_frameCompleteReport : stores (frameCompleteReport s) = stores s := by
  refine stores_withReport s fun r t u hu => ?_
  cases r <;> cases hu
  exact stores_takeFrameComplete t _

theorem stores_badFrameReport : stores (badFrameReport s) = stores s := by
  refine stores_withReport s fun r t u hu => ?_
  cases r <;> cases hu
  exact stores_takeBadFrame t _

theorem stores_stuckReport : stores (stuckReport s) = stores s := by
  refine stores_withReport s fun r t u hu => ?_
  cases r <;> cases hu
  exact stores_takeStuck t

theorem stores_recoveryReport : stores (recoveryReport s) = stores s := by
  refine stores_withReport s fun r t u hu => ?_
  cases r <;> cases hu
  exact stores_ite t rfl rfl

/-! ## Ports and time -/

theorem stores_noticeCodeRead (h : HostId) : stores (noticeCodeRead h s) = stores s := by
  unfold noticeCodeRead
  split <;> rfl

theorem stores_hostPortResetAssert (h : HostId) : stores (hostPortResetAssert h s) = stores s := by
  have habandoned : stores (abandonAccess h s) = stores s := by
    unfold abandonAccess
    split
    · exact stores_ite s rfl rfl
    · rfl
  refine stores_ite s rfl ?_
  split
  · rfl
  · exact habandoned

theorem stores_hostPortResetRelease (h : HostId) : stores (hostPortResetRelease h s) = stores s := by
  refine stores_ite s rfl ?_
  split <;> rfl

theorem stores_portResetPart (h : HostId) : stores (portResetPart h s) = stores s := stores_ite s rfl rfl
theorem stores_powerOnResetRelease : stores (powerOnResetRelease s) = stores s := stores_ite s rfl rfl
theorem stores_tick : stores (tick s) = stores s :=
  stores_ite s rfl (show stores (tickEngine s) = stores s from stores_ite s rfl rfl)
theorem stores_clockPeriod : stores (clockPeriod s) = stores s := stores_ite s rfl rfl

end

end Sys2Proof.CompletionQueues
end

section
/-! The completion queues within their depth (R144, R146), the settings in their ranges (R159, R160), and the canonical form of the buffer memory (log 24), along every command and every step. -/

namespace Sys2Proof.CompletionQueues

open Sys2Proof.Machine

/-! ## What keeps the queues and the settings -/

/-- From `s` to `t` no queue grows past its depth, and the settings stay in their ranges. -/
structure StoresKept (s t : State) : Prop where
  queues : QueuesOk s → QueuesOk t
  settings : SettingsOk s → SettingsOk t

section
variable {s t u : State}

theorem StoresKept.of_stores (h : stores t = stores s) : StoresKept s t := by
  obtain ⟨hqueues, hactive, hstaged⟩ := Stores.mk.inj h
  refine ⟨fun hs => ?_, fun hs => ?_⟩
  · simpa only [QueuesOk, State.queue, hqueues] using hs
  · simpa only [SettingsOk, hactive, hstaged] using hs

theorem StoresKept.refl (s : State) : StoresKept s s := ⟨id, id⟩

theorem StoresKept.trans (h : StoresKept s t) (h' : StoresKept t u) : StoresKept s u :=
  ⟨h'.queues ∘ h.queues, h'.settings ∘ h.settings⟩

/-- What follows and leaves the stores does not matter to them. -/
theorem StoresKept.then_same (h : StoresKept s t) (h' : stores u = stores t) : StoresKept s u := h.trans (.of_stores h')

/-- What came before and left the stores does not matter to them. -/
theorem StoresKept.after_same (h' : stores t = stores s) (h : StoresKept t u) : StoresKept s u :=
  (StoresKept.of_stores h').trans h

theorem StoresKept.ite {p : Prop} [Decidable p] (ht : StoresKept s t) (hu : StoresKept s u) :
    StoresKept s (if p then t else u) := by
  split
  · exact ht
  · exact hu

/-- A pass over a list keeps the stores if each of its steps does. -/
theorem StoresKept.foldl {α : Type} {f : State → α → State} (hf : ∀ s a, StoresKept s (f s a)) :
    ∀ (l : List α) (s : State), StoresKept s (l.foldl f s)
  | [], s => .refl s
  | a :: l, s => (hf s a).trans (StoresKept.foldl hf l _)

end

/-! ## The queues (R144, R146, R147, R150) -/

section
variable (s : State)

/-- One queue is replaced by one within the depth. -/
theorem setQueue_kept {h : HostId} {q : List Completion} (hq : QueuesOk s → q.length ≤ Config.queueDepth) :
    StoresKept s (s.setQueue h q) := by
  refine ⟨fun hs k => ?_, id⟩
  rw [State.setQueue_queue]
  split
  · exact hq hs
  · exact hs k

/-- An exchange that ends is posted only where its owner's queue has room (R70, R146). -/
theorem enterDone_kept (i : SlotNo) (x : Exchange) : StoresKept s (enterDone i x s) := by
  refine ⟨fun hs k => ?_, fun hs => ?_⟩
  · rw [BufferPool.enterDone_queue]
    split
    · next hposted =>
      obtain ⟨rfl, hroom⟩ := hposted
      rw [List.length_append]
      exact hroom
    · exact hs k
  · rw [← BufferPool.enterDone_frame i x s] at hs
    exact hs

theorem takeEnd_kept (e : ExchangeEnd) : StoresKept s (takeEnd e s) := by
  unfold takeEnd
  simp only []
  split
  case h_1 => exact .after_same (t := s.setHand { s.hand with exchangeEnd := none }) rfl (enterDone_kept _ _ _)
  all_goals exact .of_stores rfl

theorem exchangeEndTaken_kept : StoresKept s (exchangeEndTaken s) := by
  unfold exchangeEndTaken
  split
  · exact .refl s
  · exact takeEnd_kept s _

theorem cancelSlot_kept (h : HostId) (i : SlotNo) : StoresKept s (cancelSlot h i s) := by
  refine .ite (.of_stores rfl) ?_
  split
  · exact (enterDone_kept s i _).then_same rfl
  all_goals exact .of_stores rfl

theorem cancel_kept (h : HostId) : StoresKept s (cancel h s) := by
  have hsettled (i : SlotNo) : StoresKept s (settleEnd i s) := by
    unfold settleEnd
    split
    · exact .refl s
    · exact .ite (takeEnd_kept s _) (.refl s)
  unfold cancel
  split
  · exact .of_stores rfl
  · exact (hsettled _).trans (cancelSlot_kept _ h _)

theorem stationFlush_kept : StoresKept s (stationFlush s) := by
  have hslot (n : StationNo) (t : State) (i : SlotNo) : StoresKept t (flushSlot n t i) :=
    .ite (enterDone_kept t i _) (.refl t)
  unfold stationFlush
  split
  · exact .refl s
  · next n _ => exact .after_same (t := s.setHand { s.hand with flush := none }) rfl (.foldl (hslot n) _ _)

theorem revive_kept (h : HostId) : StoresKept s (revive h s) := by
  have hsettled (n : StationNo) : StoresKept s (settleFlush n s) := .ite (stationFlush_kept s) (.refl s)
  have hrevived (n : StationNo) (t : State) : stores (reviveStation n t) = stores t := rfl
  unfold revive
  split
  · exact .of_stores rfl
  · exact .ite ((hsettled _).then_same ((stores_answer _ h _).trans (hrevived _ _))) (.of_stores rfl)

/-- A pop takes one record and posts one at most. -/
theorem popCompletion_kept (h : HostId) : StoresKept s (popCompletion h s) := by
  cases hq : s.queue h with
  | nil =>
    rw [popCompletion_empty hq]
    exact .of_stores rfl
  | cons c rest =>
    have hdepth (hs : QueuesOk s) : rest.length + 1 ≤ Config.queueDepth := List.length_cons ▸ hq ▸ hs h
    rw [popCompletion_head hq]
    cases hi : oldestBacklog h s with
    | none =>
      have hpopped : oldestBacklog h (s.setQueue h rest) = none := hi
      rw [postFromBacklog_none hpopped]
      exact (setQueue_kept s fun hs => Nat.le_of_succ_le (hdepth hs)).then_same rfl
    | some i =>
      rw [postFromBacklog_popped hi]
      have hposted : StoresKept s (s.setQueue h (rest ++ [completionOf i (s.slot i)])) :=
        setQueue_kept s fun hs => by simpa using hdepth hs
      exact hposted.then_same rfl

/-! ## The settings (R160, R161) -/

theorem queues_enterIdle : (enterIdle s).queues = s.queues := by
  unfold enterIdle applyStaged
  split <;> rfl

theorem queuesOk_of_queues {t : State} (h : t.queues = s.queues) (hs : QueuesOk s) : QueuesOk t := by
  simpa only [QueuesOk, State.queue, h] using hs

/-- SET_SETTINGS takes a record in its ranges, and no queue is concerned (R160). -/
theorem setSettings_kept (h : HostId) : StoresKept s (setSettings h s) := by
  refine ⟨queuesOk_of_queues s ?_, (ExchangeTable.setSettings_keeps s h).settings⟩
  unfold setSettings
  simp only []
  split_ifs <;> rfl

/-- The guard's run-out leads to IDLE, where a pending record is applied, or to an attempt (R94, R161). -/
theorem guardRunOut_kept : StoresKept s (guardRunOut s) := by
  have hretried (i : SlotNo) (t : State) : (retryOrEnd i t).queues = t.queues := by
    unfold retryOrEnd
    simp only []
    split_ifs
    · exact queues_enterIdle _
    · exact congrArg Stores.queues (stores_beginAttempt _ i false)
  refine ⟨queuesOk_of_queues s ?_, (ExchangeTable.guardRunOut_keeps s).settings⟩
  unfold guardRunOut runOut
  simp only []
  split_ifs
  · rfl
  · split
    · exact hretried _ _
    · exact queues_enterIdle _
  · rfl

theorem powerOnReset_kept : StoresKept s (powerOnReset s) := by
  refine ⟨fun _ h => ?_, (ExchangeTable.powerOnReset_keeps s).settings⟩
  have hempty : (powerOnReset s).queue h = [] := FieldLine.reset_queue h
  rw [hempty]
  exact Nat.zero_le _

/-! ## The commands issued at a port -/

theorem issue_kept (h : HostId) (c : HostCommand) : StoresKept s (issue h c s) := by
  cases c with
  | cancel => exact cancel_kept s h
  | revive => exact revive_kept s h
  | popCompletion => exact popCompletion_kept s h
  | setSettings => exact setSettings_kept s h
  | bufAlloc => exact .of_stores (stores_bufAlloc s h)
  | bufFree => exact .of_stores (stores_bufFree s h)
  | submit => exact .of_stores (stores_submit s h)
  | readExchange => exact .of_stores (stores_readExchange s h)
  | readStation => exact .of_stores (stores_readStation s h)
  | subscribe => exact .of_stores (stores_subscribe s h)
  | unsubscribe => exact .of_stores (stores_unsubscribe s h)
  | hold => exact .of_stores (stores_hold s h)
  | release => exact .of_stores (stores_release s h)
  | pollStart => exact .of_stores (stores_pollStart s h)
  | pollRetime => exact .of_stores (stores_pollRetime s h)
  | pollStop => exact .of_stores (stores_pollStop s h)
  | readPoll => exact .of_stores (stores_readPoll s h)
  | readSettings => exact .of_stores rfl
  | lineReset => exact .of_stores (stores_lineReset s h)
  | readLine => exact .of_stores rfl
  | clearStats => exact .of_stores rfl

theorem commandWrite_kept (h : HostId) (code : Byte) : StoresKept s (commandWrite h code s) := by
  unfold commandWrite
  split
  · exact .of_stores rfl
  · exact issue_kept s h _

theorem portRegisterWrite_kept (h : HostId) (location : BitVec 7) (value : Byte) :
    StoresKept s (portRegisterWrite h location value s) := by
  unfold portRegisterWrite locationWrite
  split_ifs
  · exact .of_stores rfl
  · exact .of_stores rfl
  · exact commandWrite_kept s h value
  · exact .of_stores rfl
  · split
    · exact .of_stores rfl
    · exact .refl s

end

/-! ## Every command -/

/-- A command that goes on keeps the queues and the settings. -/
def NextStored (s : State) (o : Host.Outcome State Fault Refusal) : Prop := ∀ t, o = .next t → StoresKept s t

section
variable {s : State}

theorem nextStored_next {t : State} (h : StoresKept s t) : NextStored s (.next t) := fun _ ht => Host.Outcome.next.inj ht ▸ h

/-- An access that is served, abandoned, or waits at its port. -/
theorem nextStored_served {c : Instr} {h : HostId} {act : State → State} (ha : StoresKept s (act s)) :
    NextStored s (served c h s act) := nextStored_next (.ite ha (.ite (.refl s) (.of_stores rfl)))

theorem nextStored_internal {act : State → State} (ha : StoresKept s (act s)) : NextStored s (internal s act) :=
  nextStored_next (.ite (.refl s) ha)

/-- A part of a release, by what the block does in it. -/
theorem nextStored_releasePart {h : HostId} {part next : ReleasePart} {act : State → State} (ha : StoresKept s (act s)) :
    NextStored s (internal s (releasePart h part next act)) := nextStored_internal (.ite (ha.then_same rfl) (.refl s))

/-- An event whose work is elsewhere. -/
theorem nextStored_same {act : State → State} (ha : stores (act s) = stores s) : NextStored s (internal s act) :=
  nextStored_internal (.of_stores ha)

/-- An event of the Line Interface. -/
theorem nextStored_line {act : State → State} (ha : ExchangeTable.LineOnly s (act s)) : NextStored s (internal s act) :=
  nextStored_same (stores_of_lineOnly ha)

end

theorem exec_stored (c : Instr) (s : State) : NextStored s (exec c s) := by
  cases c with
  | exchangeEndTaken => exact nextStored_internal (exchangeEndTaken_kept s)
  | stationFlush => exact nextStored_internal (stationFlush_kept s)
  | guardRunOut => exact nextStored_internal (guardRunOut_kept s)
  | powerOnReset => exact nextStored_next (powerOnReset_kept s)
  | cqResetPart h => exact nextStored_releasePart (setQueue_kept s fun _ => Nat.zero_le _)
  | bufAlloc h => exact nextStored_served (issue_kept s h .bufAlloc)
  | bufFree h => exact nextStored_served (issue_kept s h .bufFree)
  | submit h => exact nextStored_served (issue_kept s h .submit)
  | cancel h => exact nextStored_served (issue_kept s h .cancel)
  | readExchange h => exact nextStored_served (issue_kept s h .readExchange)
  | readStation h => exact nextStored_served (issue_kept s h .readStation)
  | subscribe h => exact nextStored_served (issue_kept s h .subscribe)
  | unsubscribe h => exact nextStored_served (issue_kept s h .unsubscribe)
  | revive h => exact nextStored_served (issue_kept s h .revive)
  | hold h => exact nextStored_served (issue_kept s h .hold)
  | release h => exact nextStored_served (issue_kept s h .release)
  | pollStart h => exact nextStored_served (issue_kept s h .pollStart)
  | pollRetime h => exact nextStored_served (issue_kept s h .pollRetime)
  | pollStop h => exact nextStored_served (issue_kept s h .pollStop)
  | readPoll h => exact nextStored_served (issue_kept s h .readPoll)
  | popCompletion h => exact nextStored_served (issue_kept s h .popCompletion)
  | setSettings h => exact nextStored_served (issue_kept s h .setSettings)
  | readSettings h => exact nextStored_served (issue_kept s h .readSettings)
  | lineReset h => exact nextStored_served (issue_kept s h .lineReset)
  | readLine h => exact nextStored_served (issue_kept s h .readLine)
  | clearStats h => exact nextStored_served (issue_kept s h .clearStats)
  | badCommand h code => exact nextStored_served (commandWrite_kept s h code)
  | portRegisterWrite h location value => exact nextStored_served (portRegisterWrite_kept s h location value)
  | noticeCodeRead h => exact nextStored_served (.of_stores (stores_noticeCodeRead s h))
  | noticeMaskWrite h value => exact nextStored_served (.of_stores rfl)
  | portStatusRead h => exact nextStored_served (.of_stores rfl)
  | windowRead h offset => exact nextStored_served (.of_stores rfl)
  | windowWrite h offset value => exact nextStored_served (.of_stores rfl)
  | arbiterServe => exact nextStored_same (stores_arbiterServe s)
  | hostPortResetAssert h => exact nextStored_next (.of_stores (stores_hostPortResetAssert s h))
  | hostPortResetRelease h => exact nextStored_next (.of_stores (stores_hostPortResetRelease s h))
  | xtabResetPart h => exact nextStored_releasePart (.of_stores (stores_resetSlots s h))
  | bpoolResetPart h => exact nextStored_releasePart (.of_stores rfl)
  | plstResetPart h => exact nextStored_releasePart (.of_stores (stores_resetEntries s h))
  | stabResetPart h => exact nextStored_releasePart (.of_stores (stores_resetStations s h))
  | nctlResetPart h => exact nextStored_releasePart (.of_stores rfl)
  | portResetPart h => exact nextStored_same (stores_portResetPart s h)
  | tick => exact nextStored_same (stores_tick s)
  | replyTimerExpiry => exact nextStored_same (stores_replyTimerExpiry s)
  | leaseExpiry n => exact nextStored_same (stores_leaseExpiry s n)
  | pollDue e => exact nextStored_same (stores_pollDue s e)
  | schedulerRun => exact nextStored_same (stores_schedulerRun s)
  | openingBreakEnd => exact nextStored_line (ExchangeTable.openingBreakEnd_lineOnly s)
  | characterSent => exact nextStored_line (ExchangeTable.characterSent_lineOnly s)
  | echoCollision => exact nextStored_line (ExchangeTable.echoCollision_lineOnly s)
  | frameSent => exact nextStored_line (ExchangeTable.frameSent_lineOnly s)
  | cutBreakEnd => exact nextStored_line (ExchangeTable.cutBreakEnd_lineOnly s)
  | breakDetected => exact nextStored_line (ExchangeTable.breakDetected_lineOnly s)
  | breakEnd => exact nextStored_line (ExchangeTable.breakEnd_lineOnly s)
  | characterTaken value => exact nextStored_line (ExchangeTable.characterTaken_lineOnly s value)
  | framingError => exact nextStored_line (ExchangeTable.framingError_lineOnly s)
  | gapLimit => exact nextStored_line (ExchangeTable.gapLimit_lineOnly s)
  | stuckDetected => exact nextStored_line (ExchangeTable.stuckDetected_lineOnly s)
  | lineRecovered => exact nextStored_line (ExchangeTable.lineRecovered_lineOnly s)
  | halfBitSample => exact nextStored_line (ExchangeTable.halfBitSample_lineOnly s)
  | markToSpaceEdge => exact nextStored_next (.of_stores (stores_of_lineOnly (ExchangeTable.markToSpaceEdge_lineOnly s)))
  | spaceToMarkEdge => exact nextStored_next (.of_stores (stores_of_lineOnly (ExchangeTable.spaceToMarkEdge_lineOnly s)))
  | sentReport => exact nextStored_same (stores_sentReport s)
  | collisionReport => exact nextStored_same (stores_collisionReport s)
  | cutCompleteReport => exact nextStored_same (stores_cutCompleteReport s)
  | frameStartReport => exact nextStored_same (stores_frameStartReport s)
  | frameCompleteReport => exact nextStored_same (stores_frameCompleteReport s)
  | badFrameReport => exact nextStored_same (stores_badFrameReport s)
  | stuckReport => exact nextStored_same (stores_stuckReport s)
  | recoveryReport => exact nextStored_same (stores_recoveryReport s)
  | exchangeEndReport => exact nextStored_same (stores_exchangeEndReport s)
  | instanceEnd => exact nextStored_same (stores_instanceEnd s)
  | powerOnResetRelease => exact nextStored_next (.of_stores (stores_powerOnResetRelease s))

/-! ## The buffer memory (R39; log 24) -/

section
variable {s : State}

/-- A run of bytes from the beginning of a buffer, no longer than the buffer. -/
theorem writeBuffer_wf (b : BufNo) {bytes : List Byte} (hl : bytes.length ≤ Config.bufferBytes) (hm : Memory.wf s.mem) :
    Memory.wf (memWriteBytes s.mem (bufAddr b 0) bytes) := by
  have hb := b.isLt
  refine memWriteBytes_wf bytes s.mem _ ?_ hm
  simp only [bufAddr, Config.bufferBytes] at hl ⊢
  omega

theorem writeByte_wf (b : BufNo) (offset : Fin 64) (v : Byte) (hm : Memory.wf s.mem) :
    Memory.wf (memWrite s.mem (bufAddr b offset.val) v) := by
  have hb := b.isLt
  have ho := offset.isLt
  refine memWrite_wf ?_ hm
  simp only [bufAddr, Config.bufferBytes]
  omega

theorem mem_of_pool {t : State} (h : BufferPool.pool t = BufferPool.pool s) : t.mem = s.mem := congrArg BufferPool.Pool.mem h

theorem serveEngine_wf (c : EngineClaim) (hm : Memory.wf s.mem) : Memory.wf (serveEngine c (takeEngineClaim c s)).mem := by
  cases c with
  | fetch b offset => exact hm
  | copy b length =>
    rw [show serveEngine (.copy b length) (takeEngineClaim (.copy b length) s) = attemptEnd
      (copiedResult (BufferPool.copied b length s)) (BufferPool.copied b length s) from rfl, mem_of_pool (BufferPool.pool_attemptEnd _ _)]
    exact writeBuffer_wf b (bytes := s.lif.frame.payload.toList.take length) (by simp [Config.bufferBytes]) hm

theorem serveClear_mem (h : HostId) (b : BufNo) (owned free : Nat) : (serveClear h b owned free s).mem =
    memWriteBytes s.mem (bufAddr b 0) (List.replicate Config.bufferBytes 0) := by
  rw [serveClear, BufferPool.answerWith_mem]

theorem serveClaim_wf (h : HostId) (c : PortClaim) (hm : Memory.wf s.mem) : Memory.wf (serveClaim h c s).mem := by
  cases c with
  | read offset => simp only [serveClaim, serveRead]; split <;> exact hm
  | write offset value =>
    simp only [serveClaim, serveWrite]
    split
    · exact writeByte_wf _ offset value hm
    · exact hm
  | clear b owned free =>
    rw [serveClaim, serveClear_mem]
    exact writeBuffer_wf b List.length_replicate.le hm

theorem arbiterServe_wf (hm : Memory.wf s.mem) : Memory.wf (arbiterServe s).mem := by
  rcases arbiterServe_cases s with ⟨-, h⟩ | ⟨c, -, -, h⟩ | ⟨k, c, -, -, -, -, h⟩ | ⟨-, -, -, h⟩ <;> rw [h]
  · exact hm
  · exact serveEngine_wf c hm
  · exact serveClaim_wf k c hm
  · exact hm

/-- Only the arbiter's service and power-on reset change the memory (R39). -/
theorem exec_wf {c : Instr} {t : State} (hm : Memory.wf s.mem) (ht : exec c s = .next t) : Memory.wf t.mem := by
  by_cases hserve : c = .arbiterServe
  · subst hserve
    obtain rfl : (if s.porst then s else arbiterServe s) = t := Host.Outcome.next.inj ht
    split
    · exact hm
    · exact arbiterServe_wf hm
  by_cases hreset : c = .powerOnReset
  · subst hreset
    obtain rfl : powerOnReset s = t := Host.Outcome.next.inj ht
    exact reset_mem_wf
  obtain ⟨u, hu, hkeeps⟩ := BufferPool.exec_keeps s hserve hreset
  obtain rfl : u = t := by simpa [hu] using ht
  exact hkeeps.mem ▸ hm

end

/-! ## Every step -/

/-- What holds of a state whatever waits at its ports and in its queue, and is kept by every command and by a clock period, is kept by every step (log 2). -/
theorem step_keeps {P : State → Prop} (hports : ∀ s h p, P s → P (s.setPort h p))
    (hpending : ∀ s q, P s → P { s with pending := q }) (hexec : ∀ c s t, P s → exec c s = .next t → P t)
    (hclock : ∀ s, P s → P (clockPeriod s)) {s t : State} (hs : P s) (ht : step s = .next t) : P t := by
  unfold step at ht
  split at ht
  · unfold idleStep at ht
    split at ht
    · exact hexec _ s t hs ht
    · split at ht
      · next h c _ =>
        obtain ⟨u, hu⟩ := FieldLine.exec_goesOn c (setWaiting h [] s)
        obtain rfl : setWaiting h (s.port h).waiting.tail u = t := by simpa [serveWaiting, hu] using ht
        exact hports u h _ (hexec c _ u (hports s h _ hs) hu)
      · obtain rfl := Host.Outcome.next.inj ht
        exact hclock s hs
  · next c rest _ => exact hexec c _ t (hpending s rest hs) ht

/-- Settles O6, each of the three by what every command keeps. -/
theorem storageStaysInRange : Obligations.StorageStaysInRange := by
  refine ⟨fun s t hs ht => ?_, fun s t hs ht => ?_, fun s t hs ht => ?_⟩
  · exact step_keeps (P := fun s => Memory.wf s.mem) (fun _ _ _ => id) (fun _ _ => id) (fun _ _ _ => exec_wf)
      (fun u hu => mem_of_pool (BufferPool.pool_clockPeriod u) ▸ hu) hs ht
  · exact step_keeps (P := QueuesOk) (fun _ _ _ => id) (fun _ _ => id) (fun c u v hu hv => (exec_stored c u v hv).queues hu)
      (fun u => (StoresKept.of_stores (stores_clockPeriod u)).queues) hs ht
  · exact step_keeps (P := SettingsOk) (fun _ _ _ => id) (fun _ _ => id) (fun c u v hu hv => (exec_stored c u v hv).settings hu)
      (fun u => (StoresKept.of_stores (stores_clockPeriod u)).settings) hs ht

end Sys2Proof.CompletionQueues
end

section
/-! SET_SETTINGS (R159 to R161): the record its arguments spell, the check of its ranges, and its application or staging. -/

namespace Sys2Proof.SharedSettings

open Sys2Proof.Machine

/-- The fields of a settings record in the order of their places in the parameter area (R172). -/
def fields (x : Settings) : List Nat :=
  [x.rateCode, x.stopBits, x.guardLength, x.defaultTimeout, x.defaultRetries, x.failureThreshold, x.agingLimit, x.poolLow,
    x.exchangeQuota, x.bufferQuota]

theorem fields_injective : Function.Injective fields := by
  intro x y hxy
  cases x
  cases y
  simpa [fields] using hxy

theorem fields_settingsArg (h : HostId) (s : State) :
    fields (settingsArg h s) = (List.range 10).map fun k => (arg h (Fin.ofNat 24 k) s).toNat := rfl

/-- The ranges of R159. -/
theorem settingsInRange_iff (x : Settings) : settingsInRange x = true ↔
    x.rateCode ≤ 7 ∧ (x.stopBits = 1 ∨ x.stopBits = 2) ∧ 1 ≤ x.guardLength ∧ x.guardLength ≤ 8
      ∧ 1 ≤ x.defaultTimeout ∧ x.defaultTimeout ≤ 255 ∧ x.defaultRetries ≤ 7
      ∧ 1 ≤ x.failureThreshold ∧ x.failureThreshold ≤ 15 ∧ x.agingLimit ≤ 15 ∧ x.poolLow ≤ 95
      ∧ 1 ≤ x.exchangeQuota ∧ x.exchangeQuota ≤ 32 ∧ x.bufferQuota ≤ 96 := by
  have hstops : (1 ≤ x.stopBits ∧ x.stopBits ≤ 2) ↔ (x.stopBits = 1 ∨ x.stopBits = 2) := by omega
  simp only [settingsInRange, Bool.and_eq_true, decide_eq_true_eq, hstops, and_assoc]

section
variable {h : HostId} {s : State}

theorem setSettings_refused (hx : settingsInRange (settingsArg h s) = false) : setSettings h s = answer h .badParam s := by
  simp [setSettings, hx]

variable (hx : settingsInRange (settingsArg h s) = true)
include hx

theorem setSettings_applied (hidle : s.engine.state = .idle) :
    setSettings h s = answer h .ok (applySettings (settingsArg h s) s) := by
  simp [setSettings, hx, hidle]

theorem setSettings_staged (hbusy : s.engine.state ≠ .idle) :
    setSettings h s = answer h .pending { s with staged := some (settingsArg h s) } := by
  simp [setSettings, hx, hbusy]

end

/-- Settles O44: the arguments spell the record, and its check and the engine's state decide. -/
theorem settingsAreAppliedOrStaged : Obligations.SettingsAreAppliedOrStaged := by
  intro h x s hs hargs
  obtain rfl : settingsArg h s = x := fields_injective ((fields_settingsArg h s).trans hargs.symm)
  have hexec : exec (.setSettings h) s = .next (setSettings h s) := served_next hs
  intro inRange
  have hrange : settingsInRange (settingsArg h s) = true ↔ inRange := settingsInRange_iff _
  rw [hexec, ← hrange]
  refine ⟨fun hbad => ?_, fun hok hidle => ?_, fun hok hbusy => ?_⟩
  · rw [setSettings_refused (Bool.not_eq_true _ ▸ hbad)]
  · rw [setSettings_applied hok hidle, applySettings]
  · rw [setSettings_staged hok hbusy]

end Sys2Proof.SharedSettings
end

section
/-! The records that the blocks share: the settings with the pending one (R159), the grant pointers (R81), the stations' next sequences (R27), the submission counter (R59). What the blocks' other work leaves of them. -/

namespace Sys2Proof.SharedRecords

open Sys2Proof.Machine

/-! ## The shared records of a state -/

/-- The active and the pending settings, the grant pointers, each station's next sequence, and the submission counter. -/
structure Shared where
  active : Settings
  staged : Option Settings
  pointers : Pointers
  sequence : StationNo → Bool
  submission : Word16

def shared (s : State) : Shared := ⟨s.active, s.staged, s.pointers, fun n => (s.station n).nextSeq, s.submission⟩

/-- The shared records stand in `t` as in `s`. -/
def Same (s t : State) : Prop := shared t = shared s

section
variable {s t u : State}

theorem Same.trans (h : Same s t) (h' : Same t u) : Same s u := Eq.trans h' h

/-- What came before and left the shared records does not matter. -/
theorem Same.after (h' : Same t u) (h : Same s t) : Same s u := h.trans h'

theorem Same.ite {p : Prop} [Decidable p] (ht : Same s t) (hu : Same s u) : Same s (if p then t else u) := by
  split
  · exact ht
  · exact hu

/-- A pass over a list leaves the shared records if each of its steps does. -/
theorem Same.foldl {α : Type} {f : State → α → State} (hf : ∀ s a, Same s (f s a)) :
    ∀ (l : List α) (s : State), Same s (l.foldl f s)
  | [], _ => rfl
  | a :: l, s => (hf s a).trans (Same.foldl hf l _)

theorem Same.of_lineOnly (h : ExchangeTable.LineOnly s t) : Same s t := by
  rw [← h]
  rfl

/-- The Station Table's work leaves the shared records if it leaves each station's next sequence. -/
theorem Same.of_tableOnly (h : StationRecords.TableOnly s t) (hseq : ∀ n, (t.station n).nextSeq = (s.station n).nextSeq) :
    Same s t := by
  have hrest : shared t = { shared s with sequence := (shared t).sequence } := by
    rw [← h]
    rfl
  rw [Same, hrest]
  exact congrArg (fun q => { shared s with sequence := q }) (funext hseq)

/-- The answer of a command is no shared record. -/
theorem Same.answer {h : HostId} {r : ResultCode} (ht : Same s t) : Same s (answer h r t) := ht

theorem Same.answerWith {h : HostId} {r : ResultCode} {off : Nat} {bytes : List Byte} (ht : Same s t) :
    Same s (answerWith h r off bytes t) := ht

theorem setStation_same {n : StationNo} {x : Station} (hx : x.nextSeq = (s.station n).nextSeq) :
    Same s (s.setStation n x) := by
  refine .of_tableOnly (StationRecords.setStation_table n x s) fun m => ?_
  rw [State.setStation_station]
  split
  · next hm => rw [hx, hm]
  · rfl

end

section
variable (s : State)

/-! ## Operations that many commands share -/

theorem latchAll_same (src : NoticeSource) : Same s (latchAll src s) := rfl
theorem setEngine_same (e : Engine) : Same s (s.setEngine e) := rfl
theorem enterQuiet_same (frame : Bool) : Same s (enterQuiet frame s) := rfl

/-! ## The Buffer Pool and its arbiter's port claims -/

theorem bufAlloc_same (h : HostId) : Same s (bufAlloc h s) := by
  refine .ite rfl ?_
  split
  · rfl
  · exact .ite rfl rfl

theorem bufFree_same (h : HostId) : Same s (bufFree h s) := by
  unfold bufFree
  split
  · rfl
  · exact .ite rfl (.ite rfl rfl)

theorem serveClaim_same (h : HostId) (c : PortClaim) : Same s (serveClaim h c s) := by
  cases c with
  | read offset =>
    simp only [serveClaim, serveRead]
    split <;> rfl
  | write offset value =>
    simp only [serveClaim, serveWrite]
    split <;> rfl
  | clear b owned free => rfl

/-! ## The Exchange Table and the Completion Queues -/

theorem enterDone_same (i : SlotNo) (x : Exchange) : Same s (enterDone i x s) := by
  have hframe := congrArg shared (BufferPool.enterDone_frame i x s)
  exact hframe

theorem takeEnd_same (e : ExchangeEnd) : Same s (takeEnd e s) := by
  unfold takeEnd
  simp only []
  split
  case h_1 => exact (enterDone_same _ _ _).after rfl
  all_goals rfl

theorem exchangeEndTaken_same : Same s (exchangeEndTaken s) := by
  unfold exchangeEndTaken
  split
  · rfl
  · exact takeEnd_same s _

theorem cancel_same (h : HostId) : Same s (cancel h s) := by
  have hsettled (i : SlotNo) : Same s (settleEnd i s) := by
    unfold settleEnd
    split
    · rfl
    · exact .ite (takeEnd_same s _) rfl
  have hslot (i : SlotNo) (t : State) : Same t (cancelSlot h i t) := by
    refine .ite rfl ?_
    split
    · exact enterDone_same t i _
    all_goals rfl
  unfold cancel
  split
  · rfl
  · exact (hsettled _).trans (hslot _ _)

theorem readExchange_same (h : HostId) : Same s (readExchange h s) := by
  unfold readExchange
  split
  · rfl
  · exact .ite rfl rfl

theorem stationFlush_same : Same s (stationFlush s) := by
  have hslot (n : StationNo) (t : State) (i : SlotNo) : Same t (flushSlot n t i) := .ite (enterDone_same t i _) rfl
  unfold stationFlush
  split
  · rfl
  · exact (Same.foldl (hslot _) _ _).after rfl

theorem resetSlots_same (h : HostId) : Same s (resetSlots h s) := by
  refine .foldl (fun t i => .ite rfl ?_) _ s
  split <;> rfl

theorem popCompletion_same (h : HostId) : Same s (popCompletion h s) := by
  have hposted (t : State) : Same t (postFromBacklog h t) := by
    unfold postFromBacklog
    split <;> rfl
  unfold popCompletion
  split
  · rfl
  · exact (hposted _).after rfl

/-! ## The Station Table, but for the exchange-end report -/

theorem readStation_same (h : HostId) : Same s (readStation h s) := by
  unfold readStation
  simp only []
  split
  · rfl
  · exact .answerWith (setStation_same rfl)

theorem subscribe_same (h : HostId) : Same s (subscribe h s) := by
  unfold subscribe
  split
  · rfl
  · exact .ite rfl (.answer (setStation_same rfl))

theorem unsubscribe_same (h : HostId) : Same s (unsubscribe h s) := by
  unfold unsubscribe
  split
  · rfl
  · exact .ite (.answer (setStation_same rfl)) rfl

theorem stationChange_same (n : StationNo) : Same s (stationChange n s) := by
  refine .of_tableOnly (StationRecords.stationChange_table n s) fun m => ?_
  rw [StationRecords.stationChange_station]
  split
  · next hm => rw [← hm, StationRecords.withUnread]
  · rfl

theorem revive_same (h : HostId) : Same s (revive h s) := by
  have hsettled (n : StationNo) : Same s (settleFlush n s) := .ite (stationFlush_same s) rfl
  have hrevived (n : StationNo) (t : State) : Same t (reviveStation n t) :=
    (stationChange_same _ n).after (setStation_same rfl)
  unfold revive
  split
  · rfl
  · exact .ite (.answer ((hrevived _ _).after (hsettled _))) rfl

theorem handOver_same (n : StationNo) : Same s (handOver n s) := by
  cases hk : (s.station n).hold with
  | none =>
    rw [handOver, hk]
    rfl
  | some k =>
    obtain ⟨hold, -, hreplaced⟩ := StationRecords.handOver_replaces hk
    refine .of_tableOnly hreplaced.table fun m => ?_
    rw [hreplaced.station]
    split
    · next hm => rw [hm]
    · rfl

theorem hold_same (h : HostId) : Same s (hold h s) := by
  unfold hold
  split
  · rfl
  · refine .ite rfl ?_
    unfold holdStation
    simp only []
    split
    · exact .ite rfl (.answerWith (setStation_same rfl))
    · exact .ite (.answerWith (setStation_same rfl)) (.ite rfl (.ite rfl (.answerWith (setStation_same rfl))))

theorem release_same (h : HostId) : Same s (release h s) := by
  unfold release
  split
  · rfl
  · unfold releaseStation
    simp only []
    split
    · rfl
    · exact .ite (handOver_same s _) (.ite (.answer (setStation_same rfl)) rfl)

theorem leaseExpiry_same (n : StationNo) : Same s (leaseExpiry n s) := by
  have hexpired (k : Hold) (t : State) : Same t (expire n k t) := handOver_same _ n
  have htick (t : State) : Same t (tickLease n t) := by
    unfold tickLease
    split
    · rfl
    · exact .ite (hexpired _ t) (setStation_same rfl)
  unfold leaseExpiry
  split
  · rfl
  · exact .ite (hexpired _ s) (.ite rfl (htick _))

theorem resetStations_same (h : HostId) : Same s (resetStations h s) := by
  have hforgotten : Same s (StationRecords.forgotten h s) :=
    .of_tableOnly rfl fun n => by rw [StationRecords.forgotten_station, forgetHost]
  exact hforgotten.trans (.foldl (fun t n => .ite (handOver_same t n) rfl) _ _)

/-! ## The Poll List, but for entries that fall due -/

theorem freeEntry_same (e : EntryNo) : Same s (freeEntry e s) := rfl

theorem takeInstEnd_same (d : InstanceEnd) : Same s (takeInstEnd d s) := by
  unfold takeInstEnd
  simp only []
  split
  · refine .ite ?_ rfl
    split
    · exact .ite rfl rfl
    · rfl
  case h_4 => rfl
  all_goals exact (freeEntry_same _ _).after rfl

theorem instanceEnd_same : Same s (instanceEnd s) := by
  unfold instanceEnd
  split
  · rfl
  · exact takeInstEnd_same s _

theorem pollStop_same (h : HostId) : Same s (pollStop h s) := by
  have hsettled (e : EntryNo) : Same s (settleInstEnd e s) := by
    unfold settleInstEnd
    split
    · rfl
    · exact .ite (takeInstEnd_same s _) rfl
  have hstopped (e : EntryNo) (t : State) : Same t (stopEntry h e t) := by
    refine .ite rfl (.ite rfl ?_)
    unfold stopArmed
    split
    · exact .answer (freeEntry_same t e)
    · exact .ite rfl (.ite (.answer ((freeEntry_same _ e).after rfl)) (.answer (freeEntry_same t e)))
  unfold pollStop
  split
  · rfl
  · exact .ite rfl ((hsettled _).trans (hstopped _ _))

theorem readPoll_same (h : HostId) : Same s (readPoll h s) := by
  unfold readPoll
  split <;> rfl

theorem resetEntries_same (h : HostId) : Same s (resetEntries h s) := by
  have hsettled : Same s (settleOwnInstEnd h s) := by
    unfold settleOwnInstEnd
    split
    · rfl
    · exact .ite (takeInstEnd_same s _) rfl
  exact hsettled

/-! ## Attempts of the Line Engine (R96, R103 to R105) -/

theorem beginAttempt_same (i : SlotNo) (first : Bool) : Same s (beginAttempt i first s) :=
  (Same.of_lineOnly (ExchangeTable.takeOrder_lineOnly _ _)).after rfl

theorem attemptEnd_same (r : AttemptResult) : Same s (attemptEnd r s) := by
  unfold attemptEnd
  split
  · rfl
  · exact .ite rfl rfl

theorem replyTimerExpiry_same : Same s (replyTimerExpiry s) := by
  have hexpired (t : State) : Same t (noReply t) :=
    (attemptEnd_same _ _).after ((enterQuiet_same _ _).after ((setEngine_same _ _).after rfl))
  have htick (t : State) : Same t (tickTimer t) := .ite (.ite (hexpired t) rfl) rfl
  exact .ite (htick s) (.ite rfl (htick _))

theorem lineReset_same (h : HostId) : Same s (lineReset h s) := by
  unfold lineReset
  split
  case h_3 => exact .ite ((Same.of_lineOnly (ExchangeTable.cut_lineOnly _)).after rfl) rfl
  case h_4 => exact (attemptEnd_same _ _).after ((enterQuiet_same _ _).after rfl)
  case h_5 => exact (attemptEnd_same _ _).after ((enterQuiet_same _ _).after rfl)
  all_goals rfl

theorem arbiterServe_same : Same s (arbiterServe s) := by
  rcases arbiterServe_cases s with ⟨-, h⟩ | ⟨c, -, -, h⟩ | ⟨k, c, -, -, -, -, h⟩ | ⟨-, -, -, h⟩ <;> rw [h]
  · rfl
  · cases c with
    | fetch b offset => rfl
    | copy b length => exact (attemptEnd_same _ _).after rfl
  · exact serveClaim_same _ k c
  · rfl

/-! ## The reports that the Line Engine takes -/

theorem takeSent_same : Same s (takeSent s) := by
  unfold takeSent sentInSending
  simp only []
  split
  · split
    · exact (attemptEnd_same _ _).after rfl
    · exact .ite ((attemptEnd_same _ _).after rfl) rfl
  · rfl

theorem takeFrameStart_same : Same s (takeFrameStart s) := by
  unfold takeFrameStart
  split <;> rfl

theorem strayEnd_same (count : Stats → Stats) : Same s (strayEnd count s) := .ite rfl (.ite rfl rfl)

theorem acceptFrame_same (i : SlotNo) (f : FrameInfo) : Same s (acceptFrame i f s) := by
  have hkept : Same s (BufferPool.replyKept i f s) := (setEngine_same _ _).after ((enterQuiet_same _ _).after rfl)
  have hclaimed (b : BufNo) (t : State) : Same t (BufferPool.copyClaimed b f.length t) := rfl
  by_cases h : (s.slot i).replyBuffer = none ∨ f.length = 0
  · rw [BufferPool.acceptFrame_ends h]
    exact (attemptEnd_same _ _).after hkept
  · obtain ⟨hb, hf⟩ := not_or.1 h
    obtain ⟨b, hb⟩ := Option.ne_none_iff_exists'.1 hb
    rw [BufferPool.acceptFrame_claims hb hf]
    exact (hclaimed b _).after hkept

theorem takeFrameComplete_same (f : FrameInfo) : Same s (takeFrameComplete f s) := by
  unfold takeFrameComplete completeInReceiving
  split
  · split
    · rfl
    · rfl
    · exact acceptFrame_same s _ f
  · exact strayEnd_same s id

theorem takeBadFrame_same (r : BadReason) : Same s (takeBadFrame r s) := by
  unfold takeBadFrame
  split
  · exact (attemptEnd_same _ _).after ((enterQuiet_same _ _).after ((setEngine_same _ _).after rfl))
  · exact strayEnd_same s _

theorem takeStuck_same : Same s (takeStuck s) := by
  have hcounted : Same s (FieldLine.stuckCounted s) := rfl
  unfold takeStuck
  simp only []
  split
  case h_4 => exact (attemptEnd_same _ _).after ((setEngine_same _ _).after ((setEngine_same _ _).after hcounted))
  case h_5 => exact (attemptEnd_same _ _).after ((setEngine_same _ _).after ((setEngine_same _ _).after hcounted))
  all_goals exact hcounted

/-- A report taken leaves the shared records if what takes it does. -/
theorem withReport_same {act : Report → State → Option State} (h : ∀ r t u, act r t = some u → Same t u) :
    Same s (withReport s act) := by
  unfold withReport
  split
  · rfl
  · next r rest _ =>
    cases hu : act r (s.setLif { s.lif with reports := rest }) with
    | none => rfl
    | some u => exact (h _ _ _ hu).after rfl

theorem sentReport_same : Same s (sentReport s) := by
  refine withReport_same s fun r t u hu => ?_
  cases r <;> cases hu
  exact takeSent_same t

theorem collisionReport_same : Same s (collisionReport s) := by
  refine withReport_same s fun r t u hu => ?_
  cases r <;> cases hu
  exact .ite ((latchAll_same _ _).after ((setEngine_same _ _).after rfl)) rfl

theorem cutCompleteReport_same : Same s (cutCompleteReport s) := by
  refine withReport_same s fun r t u hu => ?_
  cases r <;> cases hu
  exact .ite ((attemptEnd_same _ _).after (enterQuiet_same _ _)) rfl

theorem frameStartReport_same : Same s (frameStartReport s) := by
  refine withReport_same s fun r t u hu => ?_
  cases r <;> cases hu
  exact takeFrameStart_same t

theorem frameCompleteReport_same : Same s (frameCompleteReport s) := by
  refine withReport_same s fun r t u hu => ?_
  cases r <;> cases hu
  exact takeFrameComplete_same t _

theorem badFrameReport_same : Same s (badFrameReport s) := by
  refine withReport_same s fun r t u hu => ?_
  cases r <;> cases hu
  exact takeBadFrame_same t _

theorem stuckReport_same : Same s (stuckReport s) := by
  refine withReport_same s fun r t u hu => ?_
  cases r <;> cases hu
  exact takeStuck_same t

theorem recoveryReport_same : Same s (recoveryReport s) := by
  refine withReport_same s fun r t u hu => ?_
  cases r <;> cases hu
  exact .ite rfl rfl

/-! ## Ports and time -/

theorem noticeCodeRead_same (h : HostId) : Same s (noticeCodeRead h s) := by
  unfold noticeCodeRead
  split <;> rfl

theorem hostPortResetAssert_same (h : HostId) : Same s (hostPortResetAssert h s) := by
  have habandoned : Same s (abandonAccess h s) := by
    unfold abandonAccess
    split
    · exact .ite rfl rfl
    · rfl
  refine .ite rfl ?_
  split
  · rfl
  · exact habandoned

theorem hostPortResetRelease_same (h : HostId) : Same s (hostPortResetRelease h s) := by
  refine .ite rfl ?_
  split <;> rfl

theorem portResetPart_same (h : HostId) : Same s (portResetPart h s) := .ite rfl rfl
theorem powerOnResetRelease_same : Same s (powerOnResetRelease s) := .ite rfl rfl

theorem tick_same : Same s (tick s) := by
  cases hw : tickWaits s with
  | true =>
    rw [tick, hw]
    rfl
  | false =>
    have hseq (n : StationNo) : ((LineEngine.ticked s).station n).nextSeq = (s.station n).nextSeq := by
      rw [LineEngine.ticked_station]
      split <;> rfl
    rw [LineEngine.tick_eq s hw]
    exact congrArg (fun q => { shared s with sequence := q }) (funext hseq)

end

end Sys2Proof.SharedRecords
end

section
/-! Which of the shared records a command's own row may change (R27, R59, R81, R161), along every command. -/

namespace Sys2Proof.SharedRecords

open Sys2Proof.Machine

/-! ## All but one of the shared records -/

/-- The shared records by name; the active and the pending settings are one. -/
inductive SharedRecord where
  | settings
  | pointers
  | sequences
  | submission

/-- From `s` to `t` every shared record but the one given stands. -/
structure AllBut (r : Option SharedRecord) (s t : State) : Prop where
  settings : r ≠ some .settings → t.active = s.active ∧ t.staged = s.staged
  pointers : r ≠ some .pointers → t.pointers = s.pointers
  sequences : r ≠ some .sequences → ∀ n, (t.station n).nextSeq = (s.station n).nextSeq
  submission : r ≠ some .submission → t.submission = s.submission

section
variable {r : Option SharedRecord} {s t u : State}

theorem AllBut.of_same (h : Same s t) : AllBut r s t := by
  obtain ⟨hactive, hstaged, hpointers, hsequences, hsubmission⟩ := Shared.mk.inj h
  exact ⟨fun _ => ⟨hactive, hstaged⟩, fun _ => hpointers, fun _ => congrFun hsequences, fun _ => hsubmission⟩

theorem AllBut.trans (h : AllBut r s t) (h' : AllBut r t u) : AllBut r s u where
  settings hr := ⟨(h'.settings hr).1.trans (h.settings hr).1, (h'.settings hr).2.trans (h.settings hr).2⟩
  pointers hr := (h'.pointers hr).trans (h.pointers hr)
  sequences hr n := (h'.sequences hr n).trans (h.sequences hr n)
  submission hr := (h'.submission hr).trans (h.submission hr)

/-- What follows and leaves the shared records does not matter. -/
theorem AllBut.then_same (h : AllBut r s t) (h' : Same t u) : AllBut r s u := h.trans (.of_same h')

/-- What came before and left the shared records does not matter. -/
theorem AllBut.after_same (h' : Same s t) (h : AllBut r t u) : AllBut r s u := (AllBut.of_same h').trans h

theorem AllBut.ite {p : Prop} [Decidable p] (ht : AllBut r s t) (hu : AllBut r s u) : AllBut r s (if p then t else u) := by
  split
  · exact ht
  · exact hu

theorem AllBut.of_tableOnly (h : StationRecords.TableOnly s t) : AllBut (some .sequences) s t := by
  rw [← h]
  exact ⟨fun _ => ⟨rfl, rfl⟩, fun _ => rfl, fun hr => absurd rfl hr, fun _ => rfl⟩

end

section
variable (s : State)

/-! ## The settings (R160, R161) -/

theorem applySettings_allBut (x : Settings) : AllBut (some .settings) s (applySettings x s) :=
  ⟨fun hr => absurd rfl hr, fun _ => rfl, fun _ _ => rfl, fun _ => rfl⟩

theorem setStaged_allBut (x : Option Settings) : AllBut (some .settings) s { s with staged := x } :=
  ⟨fun hr => absurd rfl hr, fun _ => rfl, fun _ _ => rfl, fun _ => rfl⟩

theorem setSettings_allBut (h : HostId) : AllBut (some .settings) s (setSettings h s) :=
  .ite (.of_same rfl) (.ite ((applySettings_allBut s _).then_same rfl) ((setStaged_allBut s _).then_same rfl))

theorem enterIdle_allBut : AllBut (some .settings) s (enterIdle s) := by
  have happlied (t : State) : AllBut (some .settings) t (applyStaged t) := by
    unfold applyStaged
    split
    · exact .of_same rfl
    · exact (setStaged_allBut t none).trans (applySettings_allBut _ _)
  exact .after_same (t := s.setEngine { s.engine with state := .idle }) rfl ((happlied _).then_same rfl)

/-- The guard's run-out leads to IDLE, where a pending record is applied, or to an attempt (R94, R104). -/
theorem guardRunOut_allBut : AllBut (some .settings) s (guardRunOut s) := by
  have hretried (i : SlotNo) (t : State) : AllBut (some .settings) t (retryOrEnd i t) := by
    refine .ite ?_ (.of_same ((beginAttempt_same _ i false).after rfl))
    exact .after_same (t := exchangeEnd i _ (t.setEngine { t.engine with retryDue := false })) rfl (enterIdle_allBut _)
  have hstopped : Same s (s.setEngine { s.engine with guard := { s.engine.guard with left := 0, running := false } }) := rfl
  refine .ite (.ite (.of_same hstopped) ?_) (.of_same rfl)
  split
  · exact .after_same hstopped (hretried _ _)
  · exact .after_same hstopped (enterIdle_allBut _)

/-! ## The grant pointers (R81, R88) -/

theorem schedulerRun_allBut : AllBut (some .pointers) s (schedulerRun s) := by
  have hgranted (c : ExClass) (i : SlotNo) (t : State) : AllBut (some .pointers) t (grant c i t) := by
    refine AllBut.then_same ?_ (beginAttempt_same _ i true)
    exact ⟨fun _ => ⟨rfl, rfl⟩, fun hr => absurd rfl hr, fun _ _ => rfl, fun _ => rfl⟩
  refine .ite (.ite ?_ (.of_same rfl)) (.of_same rfl)
  simp only []
  split
  · exact .of_same rfl
  · exact .after_same (t := s.setHand { s.hand with runAsked := false }) rfl (hgranted _ _ _)

/-! ## The next sequences (R27, R28) -/

theorem exchangeEndReport_allBut : AllBut (some .sequences) s (exchangeEndReport s) := by
  have htaken (r : EndReport) : AllBut (some .sequences) s (takeReport r s) := by
    rw [StationRecords.takeReport_eq]
    exact (AllBut.of_tableOnly (StationRecords.announced_table r s)).then_same rfl
  unfold exchangeEndReport
  split
  · exact .of_same rfl
  · exact .ite (.of_same rfl) (htaken _)

/-! ## The submission counter (R59, R64, R66) -/

theorem place_allBut (i : SlotNo) (x : Exchange) : AllBut (some .submission) s (place i x s) :=
  ⟨fun _ => ⟨rfl, rfl⟩, fun _ => rfl, fun _ _ => rfl, fun hr => absurd rfl hr⟩

theorem submit_allBut (h : HostId) : AllBut (some .submission) s (submit h s) := by
  unfold submit
  split
  · exact .of_same rfl
  · split
    · exact .of_same rfl
    · next i _ => exact (place_allBut s i (submitRecord h s)).then_same rfl

theorem due_allBut (e : EntryNo) : AllBut (some .submission) s (due e s) := by
  have hcreated {i : SlotNo} {t : State} (hc : createInstance e s = some (i, t)) : AllBut (some .submission) s t := by
    unfold createInstance at hc
    split_ifs at hc
    split at hc
    · cases hc
    · cases hc
      exact place_allBut s _ _
  refine .ite (.of_same rfl) (.ite (.of_same rfl) ?_)
  split
  · next i t hc => exact (hcreated hc).then_same rfl
  · exact .of_same rfl

theorem pollDue_allBut (e : EntryNo) : AllBut (some .submission) s (pollDue e s) := by
  have htick (t : State) : AllBut (some .submission) t (tickEntry e t) := by
    refine .ite (.ite ?_ (.of_same rfl)) (.of_same rfl)
    exact .after_same (t := t.setEntry e _) rfl (due_allBut _ e)
  exact .ite (htick s) (.ite (.of_same rfl) (.after_same (t := noteEntryTaken e s) rfl (htick _)))

theorem pollStart_allBut (h : HostId) : AllBut (some .submission) s (pollStart h s) := by
  have harmed (e : EntryNo) : AllBut (some .submission) s (arm h e s) := by
    have hlent : Same s (lend (.entry e) (pollStartEntry h s).requestBuffer (pollStartEntry h s).snapshotBuffer
      (s.setEntry e (pollStartEntry h s))) := rfl
    exact .ite (.after_same hlent (due_allBut _ e)) (.of_same hlent)
  unfold pollStart
  split
  · exact .of_same rfl
  · split
    · exact .of_same rfl
    · exact (harmed _).then_same rfl

theorem pollRetime_allBut (h : HostId) : AllBut (some .submission) s (pollRetime h s) := by
  have hretimed (e : EntryNo) (period first : Word16) : AllBut (some .submission) s (retime e period first s) :=
    .ite (.after_same (t := s.setEntry e { s.entry e with period := period, countdown := first }) rfl (due_allBut _ e))
      (.of_same rfl)
  unfold pollRetime
  split
  · exact .of_same rfl
  · exact .ite (.of_same rfl) (.ite (.of_same rfl) (.ite (.of_same rfl) ((hretimed _ _ _).then_same rfl)))

end

/-! ## The rows -/

/-- The shared record that a row may change. -/
def ownRecord : Instr → Option SharedRecord
  | .setSettings _ => some .settings
  | .guardRunOut => some .settings
  | .schedulerRun => some .pointers
  | .exchangeEndReport => some .sequences
  | .submit _ => some .submission
  | .pollStart _ => some .submission
  | .pollRetime _ => some .submission
  | .pollDue _ => some .submission
  | _ => none

/-- A write of a byte to a port location, which may spell another row (R168, R170; log 27). -/
def isByteWrite : Instr → Bool
  | .badCommand _ _ => true
  | .portRegisterWrite _ _ _ => true
  | _ => false

/-- A command that goes on leaves every shared record but the one given. -/
def NextAllBut (r : Option SharedRecord) (s : State) (o : Host.Outcome State Fault Refusal) : Prop :=
  ∀ t, o = .next t → AllBut r s t

section
variable {r : Option SharedRecord} {s : State}

theorem next_allBut {t : State} (h : AllBut r s t) : NextAllBut r s (.next t) :=
  fun _ ht => Host.Outcome.next.inj ht ▸ h

theorem internal_allBut {act : State → State} (ha : AllBut r s (act s)) : NextAllBut r s (internal s act) :=
  next_allBut (.ite (.of_same rfl) ha)

/-- An access that is served, abandoned, or waits at its port. -/
theorem served_allBut {c : Instr} {h : HostId} {act : State → State} (ha : portServes h s = true → AllBut r s (act s)) :
    NextAllBut r s (served c h s act) := by
  have hunserved : AllBut r s (if portRefuses h s then s else waitAtPort c h s) := .ite (.of_same rfl) (.of_same rfl)
  unfold served
  split
  · next hs => exact next_allBut (ha hs)
  · exact next_allBut hunserved

/-- An access whose work leaves the shared records. -/
theorem served_same {c : Instr} {h : HostId} {act : State → State} (ha : Same s (act s)) :
    NextAllBut r s (served c h s act) := served_allBut fun _ => .of_same ha

/-- An event whose work leaves the shared records. -/
theorem internal_same {act : State → State} (ha : Same s (act s)) : NextAllBut r s (internal s act) :=
  internal_allBut (.of_same ha)

/-- An event of the Line Interface. -/
theorem line_same {act : State → State} (ha : ExchangeTable.LineOnly s (act s)) : NextAllBut r s (internal s act) :=
  internal_same (.of_lineOnly ha)

/-- A part of a release, by what the block does in it. -/
theorem releasePart_same {h : HostId} {part next : ReleasePart} {act : State → State} (ha : Same s (act s)) :
    NextAllBut r s (internal s (releasePart h part next act)) := internal_same (.ite (ha.trans rfl) rfl)

end

/-- Every command but a byte's write and power-on reset leaves every shared record but its own. -/
theorem exec_allBut_of_plain {c : Instr} (s : State) (hwrite : isByteWrite c = false) (hreset : c ≠ .powerOnReset) :
    NextAllBut (ownRecord c) s (exec c s) := by
  cases c with
  | badCommand h code => cases hwrite
  | portRegisterWrite h location value => cases hwrite
  | powerOnReset => exact absurd rfl hreset
  | setSettings h => exact served_allBut fun _ => setSettings_allBut s h
  | guardRunOut => exact internal_allBut (guardRunOut_allBut s)
  | schedulerRun => exact internal_allBut (schedulerRun_allBut s)
  | exchangeEndReport => exact internal_allBut (exchangeEndReport_allBut s)
  | submit h => exact served_allBut fun _ => submit_allBut s h
  | pollStart h => exact served_allBut fun _ => pollStart_allBut s h
  | pollRetime h => exact served_allBut fun _ => pollRetime_allBut s h
  | pollDue e => exact internal_allBut (pollDue_allBut s e)
  | bufAlloc h => exact served_same (bufAlloc_same s h)
  | bufFree h => exact served_same (bufFree_same s h)
  | cancel h => exact served_same (cancel_same s h)
  | readExchange h => exact served_same (readExchange_same s h)
  | readStation h => exact served_same (readStation_same s h)
  | subscribe h => exact served_same (subscribe_same s h)
  | unsubscribe h => exact served_same (unsubscribe_same s h)
  | revive h => exact served_same (revive_same s h)
  | hold h => exact served_same (hold_same s h)
  | release h => exact served_same (release_same s h)
  | pollStop h => exact served_same (pollStop_same s h)
  | readPoll h => exact served_same (readPoll_same s h)
  | popCompletion h => exact served_same (popCompletion_same s h)
  | readSettings h => exact served_same rfl
  | lineReset h => exact served_same (lineReset_same s h)
  | readLine h => exact served_same rfl
  | clearStats h => exact served_same rfl
  | noticeCodeRead h => exact served_same (noticeCodeRead_same s h)
  | noticeMaskWrite h value => exact served_same rfl
  | portStatusRead h => exact served_same rfl
  | windowRead h offset => exact served_same rfl
  | windowWrite h offset value => exact served_same rfl
  | arbiterServe => exact internal_same (arbiterServe_same s)
  | hostPortResetAssert h => exact next_allBut (.of_same (hostPortResetAssert_same s h))
  | hostPortResetRelease h => exact next_allBut (.of_same (hostPortResetRelease_same s h))
  | xtabResetPart h => exact releasePart_same (resetSlots_same s h)
  | bpoolResetPart h => exact releasePart_same rfl
  | plstResetPart h => exact releasePart_same (resetEntries_same s h)
  | stabResetPart h => exact releasePart_same (resetStations_same s h)
  | cqResetPart h => exact releasePart_same rfl
  | nctlResetPart h => exact releasePart_same rfl
  | portResetPart h => exact internal_same (portResetPart_same s h)
  | tick => exact internal_same (tick_same s)
  | replyTimerExpiry => exact internal_same (replyTimerExpiry_same s)
  | leaseExpiry n => exact internal_same (leaseExpiry_same s n)
  | openingBreakEnd => exact line_same (ExchangeTable.openingBreakEnd_lineOnly s)
  | characterSent => exact line_same (ExchangeTable.characterSent_lineOnly s)
  | echoCollision => exact line_same (ExchangeTable.echoCollision_lineOnly s)
  | frameSent => exact line_same (ExchangeTable.frameSent_lineOnly s)
  | cutBreakEnd => exact line_same (ExchangeTable.cutBreakEnd_lineOnly s)
  | breakDetected => exact line_same (ExchangeTable.breakDetected_lineOnly s)
  | breakEnd => exact line_same (ExchangeTable.breakEnd_lineOnly s)
  | characterTaken value => exact line_same (ExchangeTable.characterTaken_lineOnly s value)
  | framingError => exact line_same (ExchangeTable.framingError_lineOnly s)
  | gapLimit => exact line_same (ExchangeTable.gapLimit_lineOnly s)
  | stuckDetected => exact line_same (ExchangeTable.stuckDetected_lineOnly s)
  | lineRecovered => exact line_same (ExchangeTable.lineRecovered_lineOnly s)
  | halfBitSample => exact line_same (ExchangeTable.halfBitSample_lineOnly s)
  | markToSpaceEdge => exact next_allBut (.of_same (.of_lineOnly (ExchangeTable.markToSpaceEdge_lineOnly s)))
  | spaceToMarkEdge => exact next_allBut (.of_same (.of_lineOnly (ExchangeTable.spaceToMarkEdge_lineOnly s)))
  | sentReport => exact internal_same (sentReport_same s)
  | collisionReport => exact internal_same (collisionReport_same s)
  | cutCompleteReport => exact internal_same (cutCompleteReport_same s)
  | frameStartReport => exact internal_same (frameStartReport_same s)
  | frameCompleteReport => exact internal_same (frameCompleteReport_same s)
  | badFrameReport => exact internal_same (badFrameReport_same s)
  | stuckReport => exact internal_same (stuckReport_same s)
  | recoveryReport => exact internal_same (recoveryReport_same s)
  | exchangeEndTaken => exact internal_same (exchangeEndTaken_same s)
  | stationFlush => exact internal_same (stationFlush_same s)
  | instanceEnd => exact internal_same (instanceEnd_same s)
  | powerOnResetRelease => exact next_allBut (.of_same (powerOnResetRelease_same s))

/-! ## The writes of a byte (R168, R170; log 27) -/

/-- The row of a code of the table is a command that a host issues. -/
theorem commandCodes_plain : ∀ h, ∀ p ∈ commandCodes h, isByteWrite p.2 = false ∧ portAccess p.2 = some h := by decide

/-- A code stands in the table with its row, or in no row of it and is a BAD_COMMAND. -/
theorem codeRow_cases (h : HostId) (code : Byte) : (code, codeRow h code) ∈ commandCodes h
    ∨ (∀ row, (code, row) ∉ commandCodes h) ∧ codeRow h code = .badCommand h code := by
  unfold codeRow
  cases hrow : (commandCodes h).lookup code with
  | some row =>
    obtain ⟨before, behind, htable, -⟩ := List.lookup_eq_some_iff.1 hrow
    exact .inl (htable ▸ List.mem_append_right _ List.mem_cons_self)
  | none => exact .inr ⟨fun row hmem => by simpa using List.lookup_eq_none_iff.1 hrow _ hmem, rfl⟩

/-- The code's row is an access of the port at which it is written. -/
theorem portAccess_codeRow (h : HostId) (code : Byte) : portAccess (codeRow h code) = some h := by
  rcases codeRow_cases h code with hrow | ⟨-, hbad⟩
  · exact (commandCodes_plain h _ hrow).2
  · rw [hbad]
    rfl

theorem commandWrite_allBut {h : HostId} {s : State} (hs : portServes h s = true) (code : Byte) :
    AllBut (ownRecord (codeRow h code)) s (commandWrite h code s) := by
  rcases codeRow_cases h code with hrow | ⟨hno, -⟩
  · obtain ⟨hplain, haccess⟩ := commandCodes_plain h _ hrow
    have hreset : codeRow h code ≠ .powerOnReset := fun hc => by simp [hc, portAccess] at haccess
    exact exec_allBut_of_plain s hplain hreset _ (PortLocations.commandWrite_known hs hrow).symm
  · rw [PortLocations.commandWrite_unknown hno]
    exact .of_same rfl

theorem locationWrite_allBut {h : HostId} {s : State} (hs : portServes h s = true) (location : BitVec 7) (value : Byte) :
    AllBut (ownRecord (rowOf (.portRegisterWrite h location value))) s (locationWrite h location value s) := by
  unfold locationWrite
  split_ifs with hwindow hselect hcommand
  · exact .of_same rfl
  · exact .of_same rfl
  · subst hcommand
    exact commandWrite_allBut hs value
  · exact .of_same rfl
  · split <;> exact .of_same rfl

/-- A command that writes no byte spells its own row; one that does spells a row of its host's port. -/
theorem rowOf_of_plain {c : Instr} (hwrite : isByteWrite c = false) : rowOf c = c := by
  unfold rowOf
  split
  · cases hwrite
  · cases hwrite
  · rfl

theorem portAccess_rowOf_of_byteWrite {c : Instr} (hwrite : isByteWrite c = true) : portAccess (rowOf c) ≠ none := by
  unfold isByteWrite at hwrite
  split at hwrite
  · next h code => simp [rowOf, portAccess_codeRow]
  · next h location value =>
    unfold rowOf
    simp only []
    split_ifs
    · nofun
    · simp [portAccess_codeRow]
    · nofun
    · nofun
  · cases hwrite

/-- A command that spells an event's row is that event. -/
theorem ne_of_rowOf_ne {c e : Instr} (he : portAccess e = none) (hc : c ≠ e) : rowOf c ≠ e := by
  cases hwrite : isByteWrite c with
  | true => exact fun hrow => portAccess_rowOf_of_byteWrite hwrite (hrow ▸ he)
  | false =>
    rw [rowOf_of_plain hwrite]
    exact hc

/-- Every command but power-on reset leaves every shared record but that of the row it spells. -/
theorem exec_allBut {c : Instr} (s : State) (hreset : c ≠ .powerOnReset) : NextAllBut (ownRecord (rowOf c)) s (exec c s) := by
  cases hwrite : isByteWrite c with
  | false =>
    rw [rowOf_of_plain hwrite]
    exact exec_allBut_of_plain s hwrite hreset
  | true =>
    unfold isByteWrite at hwrite
    split at hwrite
    · next h code => exact served_allBut fun hs => commandWrite_allBut hs code
    · next h location value => exact served_allBut fun hs => locationWrite_allBut hs location value
    · cases hwrite

/-! ## The rows of each record -/

section
variable {i : Instr}

theorem ownRecord_settings (h : ownRecord i = some .settings) : (∃ h, i = .setSettings h) ∨ i = .guardRunOut := by
  unfold ownRecord at h
  split at h <;> simp_all

theorem ownRecord_pointers (h : ownRecord i = some .pointers) : i = .schedulerRun := by
  unfold ownRecord at h
  split at h <;> simp_all

theorem ownRecord_sequences (h : ownRecord i = some .sequences) : i = .exchangeEndReport := by
  unfold ownRecord at h
  split at h <;> simp_all

theorem ownRecord_submission (h : ownRecord i = some .submission) :
    (∃ h, i = .submit h) ∨ (∃ h, i = .pollStart h) ∨ (∃ h, i = .pollRetime h) ∨ ∃ e, i = .pollDue e := by
  unfold ownRecord at h
  split at h <;> simp_all

end

/-- Settles O12: every command leaves all of them but the one that its row may change. -/
theorem sharedRecordsChangeOnlyByTheirOwnEvents : Obligations.SharedRecordsChangeOnlyByTheirOwnEvents := by
  intro c s t hreset ht
  obtain ⟨hsettings, hpointers, hsequences, hsubmission⟩ := exec_allBut s hreset t ht
  refine ⟨fun hset hc => hsettings fun hown => ?_, fun hc => hpointers fun hown => ?_,
    fun hc => hsequences fun hown => ?_, fun hsubmit hstart hretime hdue => hsubmission fun hown => ?_⟩
  · rcases ownRecord_settings hown with ⟨h, hrow⟩ | hrow
    · exact hset h hrow
    · exact ne_of_rowOf_ne rfl hc hrow
  · exact ne_of_rowOf_ne rfl hc (ownRecord_pointers hown)
  · exact ne_of_rowOf_ne rfl hc (ownRecord_sequences hown)
  · rcases ownRecord_submission hown with ⟨h, hrow⟩ | ⟨h, hrow⟩ | ⟨h, hrow⟩ | ⟨e, hrow⟩
    · exact hsubmit h hrow
    · exact hstart h hrow
    · exact hretime h hrow
    · exact ne_of_rowOf_ne rfl (hdue e) hrow

end Sys2Proof.SharedRecords
end

section
/-! The invariants at reset (R40, R45, R93, R115, R144, R159, R177): each block's, from the tables at power-on. -/

namespace Sys2Proof.HostPorts

open Sys2Proof.Machine FieldLine

/-! ## The blocks' invariants at power-on -/

theorem reset_poolOk : PoolOk State.reset := by
  refine ⟨List.nodup_finRange 96, fun b => ?_, fun b _ => reset_attachment b, fun b ho => ?_⟩
  · simp [State.reset, State.holder, tget]
  · rw [reset_holder] at ho
    cases ho

theorem reset_heldCount (h : HostId) : heldCount h State.reset = 0 := tcount_replicate rfl

theorem reset_holdsOk : HoldsOk State.reset := by
  refine ⟨fun n k hk => ?_, fun h => ?_⟩
  · rw [reset_station] at hk
    cases hk
  · rw [reset_heldCount]
    exact Nat.zero_le _

theorem reset_settingsOk : SettingsOk State.reset := ⟨rfl, fun _ hx => nomatch hx⟩

/-- The engine is in QUIET with no exchange, no frame and no copy under way. -/
theorem reset_engineOk : EngineOk State.reset := ⟨rfl, rfl, ⟨(nomatch ·), fun ⟨_, _, h⟩ => nomatch h⟩⟩

theorem reset_oneOnLine : OneOnLine State.reset := by
  refine ⟨fun i => ⟨fun hi => ?_, fun hi => ?_⟩, .inl rfl⟩
  · rw [reset_slot] at hi
    exact absurd hi ExchangeTable.freeExchange_offLine
  · rcases hi with hcurrent | ⟨_, hended, -⟩
    · cases hcurrent
    · cases hended

theorem reset_attemptsOk : AttemptsOk State.reset := by
  refine ⟨fun i => ?_, fun i _ => ?_, fun _ hcurrent => nomatch hcurrent⟩
  · rw [reset_slot]
    exact ⟨Nat.zero_le _, Nat.zero_le _⟩
  · rw [reset_slot]
    rfl

/-- Settles O5: block by block; no byte of the memory is listed and every queue is empty. -/
theorem invariantsHoldAtReset : Obligations.InvariantsHoldAtReset :=
  ⟨⟨.nil, fun _ hc => nomatch hc⟩, reset_poolOk, fun h => by rw [reset_queue]; exact Nat.zero_le _, reset_holdsOk,
    reset_settingsOk, reset_engineOk, reset_oneOnLine, reset_attemptsOk⟩

end Sys2Proof.HostPorts
end

section
/-! The places of an answer and of the record copies (R168, R170 to R173): what a host reads back, the halves of a 16-bit quantity, flags in a byte, and each copy offset by offset. -/

namespace Sys2Proof.HostPorts

open Sys2Proof.Machine PortLocations

/-! ## What an answer writes is read back (R170) -/

section
variable (h : HostId) (r : ResultCode) (s : State)

theorem readLocation_result : readLocation h 0x42 s = some (resultByte (s.port h).result) := rfl

theorem answer_result : ((answer h r s).port h).result = r := by simp [answer]

/-- A result alone leaves the parameter area. -/
theorem answer_arg (k : Fin 24) : arg h k (answer h r s) = arg h k s := by simp [answer, arg]

end

/-! ## The bytes of a quantity (R168, R173) -/

theorem hiByte_eq (w : Word16) : hiByte w = BitVec.ofNat 8 (w.toNat / 256) := by
  rw [hiByte, BitVec.extractLsb', Nat.shiftRight_eq_div_pow]

theorem loByte_eq (w : Word16) : loByte w = BitVec.ofNat 8 (w.toNat % 256) := by
  refine BitVec.eq_of_toNat_eq ?_
  simp [loByte]

/-! An absent number is 0xFF, and one that is present its own byte: a buffer, a slot, a waiter's host, a length, an outcome and an attempt's result. -/

theorem buffer_byte (x : Option BufNo) : optByte (fun b : BufNo => natByte b.val) x =
    (match x with | none => 0xFF | some b => natByte b.val) := by cases x <;> rfl

theorem slot_byte (x : Option SlotNo) : optByte (fun i : SlotNo => natByte i.val) x =
    (match x with | none => 0xFF | some i => natByte i.val) := by cases x <;> rfl

theorem waiter_byte (x : Option Waiter) : optByte (fun w : Waiter => natByte w.host.val) x =
    (match x with | none => 0xFF | some w => natByte w.host.val) := by cases x <;> rfl

theorem length_byte (x : Option Nat) : optByte natByte x = (match x with | none => 0xFF | some n => natByte n) := by
  cases x <;> rfl

theorem outcome_byte (x : Option ExOutcome) : optByte outcomeByte x =
    (match x with | none => 0xFF | some o => outcomeByte o) := by cases x <;> rfl

theorem attemptResult_byte (x : Option AttemptResult) : optByte attemptResultByte x = (match x with
    | none => 0xFF | some .replyOk => 0 | some .replyNegative => 1 | some .noReply => 2 | some .badReply => 3
    | some .collision => 4 | some .lineStuck => 5 | some .aborted => 6) := by
  rcases x with _ | r
  · rfl
  · cases r <;> rfl

/-! ## Flags in a byte -/

/-- The bits of a byte of `n` flags stand below bit `n`. -/
theorem bitsByte_lt {flags : List Bool} (hl : flags.length ≤ 8) : (bitsByte flags).toNat < 2 ^ flags.length := by
  refine Nat.lt_pow_two_of_testBit _ fun n hn => ?_
  rw [BitVec.testBit_toNat, bitsByte_bit flags n hl, List.getElem?_eq_none hn]
  rfl

theorem bitsByte_three : ∀ a b c : Bool, bitsByte [a, b, c] = BitVec.ofNat 8 (a.toNat + 2 * b.toNat + 4 * c.toNat) := by
  decide

/-- A host's number takes bits 1 and 0 alone. -/
theorem natByte_host_bit (k : HostId) {n : Nat} (hn : 2 ≤ n) : (natByte k.val).getLsbD n = false := by
  have hk : k.val < 2 ^ n := k.isLt.trans_le (Nat.pow_le_pow_right Nat.two_pos hn)
  rw [natByte, BitVec.getLsbD_ofNat, Nat.testBit_lt_two_pow hk, Bool.and_false]

/-- The flags of an exchange stand from bit 2 of their byte on. -/
theorem exchangeFlags_bit (x : Exchange) {n : Nat} (hn : n < 6) : (exchangeFlags x).getLsbD (n + 2) =
    (([x.promoted, x.cancelRequested, x.transmitted, x.payloadDropped, x.finish.isSome, x.replyFunction.isSome] :
      List Bool)[n]?).getD false := by
  rw [exchangeFlags, BitVec.getLsbD_or, BitVec.getLsbD_shiftLeft, natByte_host_bit _ (Nat.le_add_left 2 n),
    Nat.add_sub_cancel, bitsByte_bit _ _ (by simp)]
  have hplace : n + 2 < 8 := by omega
  simp [hplace]

/-- The owner stands in bits 1 and 0. -/
theorem exchangeFlags_owner (x : Exchange) : (exchangeFlags x).toNat % 4 = x.owner.val := by
  have hx := x.owner.isLt
  have hshift (n : Nat) : (n <<< 2) % 2 ^ 8 % 2 ^ 2 = 0 := by omega
  rw [exchangeFlags, BitVec.toNat_or, BitVec.toNat_shiftLeft]
  refine Nat.or_mod_two_pow (n := 2).trans ?_
  rw [hshift, Nat.zero_or, natByte, BitVec.toNat_ofNat]
  omega

/-- The byte of a station's subscribers has host `k` in bit `k`. -/
theorem subscribers_bit (t : Table Bool 4) (k : HostId) : (bitsByte t.toList).getLsbD k.val = tget t k := by
  rw [bitsByte_bit _ _ (by simp)]
  simp [tget]

/-- Settles O14: the answers, then the codes, then each copy by its table. -/
theorem answersAndCopiesHaveTheirPlaces : Obligations.AnswersAndCopiesHaveTheirPlaces := by
  unfold Obligations.AnswersAndCopiesHaveTheirPlaces
  intro hi lo num bit buffer classCode outcomeCode
  refine ⟨fun h r off bytes s k => ?_, rfl, rfl, fun i x => ?_, fun h n x => ?_, fun e x => ?_, fun c => ?_, fun s => ⟨?_, rfl⟩⟩
  · obtain ⟨hresult, hargs, -⟩ := answerWith_spec h r off bytes s
    simp only [readLocation_result, readLocation_params, hresult, hargs, answer_result, answer_arg, and_self]
  · have hflag {n : Nat} (hn : n < 6) := exchangeFlags_bit x hn
    refine ⟨exchangeFlags_owner x, hflag (n := 0) (by decide), hflag (n := 1) (by decide), hflag (n := 2) (by decide),
      hflag (n := 3) (by decide), hflag (n := 4) (by decide), hflag (n := 5) (by decide), ?_⟩
    simp only [exchangeCopy, hiByte_eq, loByte_eq, buffer_byte, attemptResult_byte, outcome_byte]
    rfl
  · refine ⟨bitsByte x.subscribers.toList, subscribers_bit _, ?_, ?_⟩
    · simpa using bitsByte_lt (flags := x.subscribers.toList) (by simp)
    · simp only [stationCopy, waiterByte, hiByte_eq, loByte_eq, waiter_byte]
      rfl
  · simp only [entryCopy, hiByte_eq, loByte_eq, buffer_byte, slot_byte, length_byte, outcome_byte, bitsByte_three]
    rfl
  · simp only [completionCopy, hiByte_eq, loByte_eq, bitsByte_three]
    rfl
  · simp only [lineCopy, statsBytes, hiByte_eq, loByte_eq, slot_byte]
    rfl

end Sys2Proof.HostPorts
end

section
/-! What stands outside the blocks (R168, R169; log 31): the commands to come and the host ports. No block's own work touches either, and a command given at a port touches that port alone. -/

namespace Sys2Proof.HostPorts

open Sys2Proof.Machine

/-! ## The host side of a state -/

/-- What the hosts have of the part: the commands to come, and the ports. -/
structure HostSide where
  pending : List Instr
  ports : Table Port 4

def hostSide (s : State) : HostSide := ⟨s.pending, s.ports⟩

/-- From `s` to `t` only blocks inside the part have worked. -/
def Inside (s t : State) : Prop := hostSide t = hostSide s

/-- From `s` to `t` the commands to come stand, and every port but host `h`'s. -/
structure AtPort (h : HostId) (s t : State) : Prop where
  pending : t.pending = s.pending
  others : otherPortsSame h s t

section
variable {h : HostId} {s t u : State} {x : Port}

theorem Inside.trans (ht : Inside s t) (hu : Inside t u) : Inside s u := Eq.trans hu ht

/-- What came before and stayed inside does not matter. -/
theorem Inside.after (hu : Inside t u) (ht : Inside s t) : Inside s u := ht.trans hu

theorem Inside.ite {p : Prop} [Decidable p] (ht : Inside s t) (hu : Inside s u) : Inside s (if p then t else u) := by
  split
  · exact ht
  · exact hu

/-- A pass over a list stays inside if each of its steps does. -/
theorem Inside.foldl {α : Type} {f : State → α → State} (hf : ∀ s a, Inside s (f s a)) :
    ∀ (l : List α) (s : State), Inside s (l.foldl f s)
  | [], _ => rfl
  | a :: l, s => (hf s a).trans (Inside.foldl hf l _)

theorem Inside.of_lineOnly (ht : ExchangeTable.LineOnly s t) : Inside s t := by
  rw [← ht]
  rfl

theorem Inside.of_tableOnly (ht : StationRecords.TableOnly s t) : Inside s t := by
  rw [← ht]
  rfl

theorem Inside.pending (ht : Inside s t) : t.pending = s.pending := congrArg HostSide.pending ht

theorem Inside.atPort (ht : Inside s t) : AtPort h s t where
  pending := ht.pending
  others k _ := congrArg (tget · k) (congrArg HostSide.ports ht)

theorem setPort_at : AtPort h s (s.setPort h x) where
  pending := rfl
  others k hk := by simp [Ne.symm hk]

theorem AtPort.refl : AtPort h s s := ⟨rfl, fun _ _ => rfl⟩

theorem AtPort.trans (ht : AtPort h s t) (hu : AtPort h t u) : AtPort h s u :=
  ⟨hu.pending.trans ht.pending, fun k hk => (hu.others k hk).trans (ht.others k hk)⟩

/-- The port's own part of a command comes last: its answer, a byte driven, a claim placed, its next phase. -/
theorem AtPort.setPort (ht : AtPort h s t) : AtPort h s (t.setPort h x) := ht.trans setPort_at

theorem Inside.setPort (ht : Inside s t) : AtPort h s (t.setPort h x) := ht.atPort.setPort

theorem AtPort.ite {p : Prop} [Decidable p] (ht : AtPort h s t) (hu : AtPort h s u) : AtPort h s (if p then t else u) := by
  split
  · exact ht
  · exact hu

end

section
variable (s : State)

/-! ## The Exchange Table and the Completion Queues -/

theorem enterDone_inside (i : SlotNo) (x : Exchange) : Inside s (enterDone i x s) := .ite rfl rfl

theorem takeEnd_inside (e : ExchangeEnd) : Inside s (takeEnd e s) := by
  unfold takeEnd
  simp only []
  split
  case h_1 => exact (enterDone_inside _ _ _).after rfl
  all_goals rfl

theorem exchangeEndTaken_inside : Inside s (exchangeEndTaken s) := by
  unfold exchangeEndTaken
  split
  · rfl
  · exact takeEnd_inside s _

theorem stationFlush_inside : Inside s (stationFlush s) := by
  have hslot (n : StationNo) (t : State) (i : SlotNo) : Inside t (flushSlot n t i) := .ite (enterDone_inside t i _) rfl
  unfold stationFlush
  split
  · rfl
  · exact (Inside.foldl (hslot _) _ _).after rfl

theorem resetSlots_inside (h : HostId) : Inside s (resetSlots h s) := by
  refine .foldl (fun t i => .ite rfl ?_) _ s
  split <;> rfl

theorem submit_at (h : HostId) : AtPort h s (submit h s) := by
  unfold submit
  split
  · exact setPort_at
  · split
    · exact setPort_at
    · exact Inside.setPort rfl

theorem cancel_at (h : HostId) : AtPort h s (cancel h s) := by
  have hsettled (i : SlotNo) : Inside s (settleEnd i s) := by
    unfold settleEnd
    split
    · rfl
    · exact .ite (takeEnd_inside s _) rfl
  have hslot (i : SlotNo) (t : State) : AtPort h t (cancelSlot h i t) := by
    refine .ite setPort_at ?_
    split
    · exact (enterDone_inside t i _).setPort
    · exact Inside.setPort rfl
    · exact setPort_at
  unfold cancel
  split
  · exact setPort_at
  · exact (hsettled _).atPort.trans (hslot _ _)

theorem readExchange_at (h : HostId) : AtPort h s (readExchange h s) := by
  unfold readExchange
  split
  · exact setPort_at
  · exact .ite setPort_at setPort_at

theorem popCompletion_at (h : HostId) : AtPort h s (popCompletion h s) := by
  have hposted (t : State) : Inside t (postFromBacklog h t) := by
    unfold postFromBacklog
    split <;> rfl
  unfold popCompletion
  split
  · exact setPort_at
  · exact Inside.setPort (Inside.after (hposted _) rfl)

/-! ## The Station Table -/

theorem exchangeEndReport_inside : Inside s (exchangeEndReport s) := by
  have htaken (r : EndReport) : Inside s (takeReport r s) := by
    rw [StationRecords.takeReport_eq]
    exact (Inside.of_tableOnly (StationRecords.announced_table r s)).trans rfl
  unfold exchangeEndReport
  split
  · rfl
  · exact .ite rfl (htaken _)

theorem handOver_inside (n : StationNo) : Inside s (handOver n s) := by
  cases hk : (s.station n).hold with
  | none =>
    rw [handOver, hk]
    rfl
  | some k =>
    obtain ⟨hold, -, hreplaced⟩ := StationRecords.handOver_replaces hk
    exact .of_tableOnly hreplaced.table

theorem leaseExpiry_inside (n : StationNo) : Inside s (leaseExpiry n s) := by
  have hexpired (k : Hold) (t : State) : Inside t (expire n k t) := (handOver_inside _ n).after rfl
  have htick (t : State) : Inside t (tickLease n t) := by
    unfold tickLease
    split
    · rfl
    · exact .ite (hexpired _ t) rfl
  unfold leaseExpiry
  split
  · rfl
  · exact .ite (hexpired _ s) (.ite rfl ((htick _).after rfl))

theorem resetStations_inside (h : HostId) : Inside s (resetStations h s) :=
  (Inside.foldl (fun t n => .ite (handOver_inside t n) rfl) _ _).after rfl

theorem readStation_at (h : HostId) : AtPort h s (readStation h s) := by
  unfold readStation
  split
  · exact setPort_at
  · exact Inside.setPort rfl

theorem subscribe_at (h : HostId) : AtPort h s (subscribe h s) := by
  unfold subscribe
  split
  · exact setPort_at
  · exact .ite setPort_at (Inside.setPort rfl)

theorem unsubscribe_at (h : HostId) : AtPort h s (unsubscribe h s) := by
  unfold unsubscribe
  split
  · exact setPort_at
  · exact .ite (Inside.setPort rfl) setPort_at

theorem revive_at (h : HostId) : AtPort h s (revive h s) := by
  have hrevived (n : StationNo) : Inside s (reviveStation n (settleFlush n s)) :=
    Inside.after rfl (.ite (stationFlush_inside s) rfl)
  unfold revive
  split
  · exact setPort_at
  · exact .ite ((hrevived _).setPort) setPort_at

theorem hold_at (h : HostId) : AtPort h s (hold h s) := by
  have hstation (n : StationNo) (lease : Word16) : AtPort h s (holdStation h n lease s) := by
    unfold holdStation
    simp only []
    split
    · exact .ite setPort_at (Inside.setPort rfl)
    · exact .ite (Inside.setPort rfl) (.ite setPort_at (.ite setPort_at (Inside.setPort rfl)))
  unfold hold
  split
  · exact setPort_at
  · exact .ite setPort_at (hstation _ _)

theorem release_at (h : HostId) : AtPort h s (release h s) := by
  have hstation (n : StationNo) : AtPort h s (releaseStation h n s) := by
    unfold releaseStation
    simp only []
    split
    · exact setPort_at
    · exact .ite ((handOver_inside s n).setPort) (.ite (Inside.setPort rfl) setPort_at)
  unfold release
  split
  · exact setPort_at
  · exact hstation _

/-! ## The Poll List -/

theorem due_inside (e : EntryNo) : Inside s (due e s) := by
  have hcreated {i : SlotNo} {t : State} (hc : createInstance e s = some (i, t)) : Inside s t := by
    unfold createInstance at hc
    split_ifs at hc
    split at hc
    · cases hc
    · cases hc
      rfl
  refine .ite rfl (.ite rfl ?_)
  split
  · next i t hc => exact (hcreated hc).trans rfl
  · rfl

theorem pollDue_inside (e : EntryNo) : Inside s (pollDue e s) := by
  have htick (t : State) : Inside t (tickEntry e t) := .ite (.ite ((due_inside _ e).after rfl) rfl) rfl
  exact .ite (htick s) (.ite rfl ((htick _).after rfl))

theorem takeInstEnd_inside (d : InstanceEnd) : Inside s (takeInstEnd d s) := by
  have hrecorded (t : State) : Inside t (recordEnd d t) := by
    refine .ite ?_ rfl
    split
    · exact .ite rfl rfl
    · rfl
  unfold takeInstEnd
  simp only []
  split
  case h_1 => exact (hrecorded _).after rfl
  all_goals rfl

theorem instanceEnd_inside : Inside s (instanceEnd s) := by
  unfold instanceEnd
  split
  · rfl
  · exact takeInstEnd_inside s _

theorem resetEntries_inside (h : HostId) : Inside s (resetEntries h s) := by
  have hsettled : Inside s (settleOwnInstEnd h s) := by
    unfold settleOwnInstEnd
    split
    · rfl
    · exact .ite (takeInstEnd_inside s _) rfl
  exact hsettled.trans rfl

theorem pollStart_at (h : HostId) : AtPort h s (pollStart h s) := by
  have harmed (e : EntryNo) : Inside s (arm h e s) := .ite ((due_inside _ e).after rfl) rfl
  unfold pollStart
  split
  · exact setPort_at
  · split
    · exact setPort_at
    · exact (harmed _).setPort

theorem pollRetime_at (h : HostId) : AtPort h s (pollRetime h s) := by
  have hretimed (e : EntryNo) (period first : Word16) : Inside s (retime e period first s) :=
    .ite ((due_inside _ e).after rfl) rfl
  unfold pollRetime
  split
  · exact setPort_at
  · exact .ite setPort_at (.ite setPort_at (.ite setPort_at ((hretimed _ _ _).setPort)))

theorem pollStop_at (h : HostId) : AtPort h s (pollStop h s) := by
  have hsettled (e : EntryNo) : Inside s (settleInstEnd e s) := by
    unfold settleInstEnd
    split
    · rfl
    · exact .ite (takeInstEnd_inside s _) rfl
  have hstopped (e : EntryNo) (t : State) : AtPort h t (stopEntry h e t) := by
    refine .ite setPort_at (.ite setPort_at ?_)
    unfold stopArmed
    split
    · exact Inside.setPort rfl
    · exact .ite (Inside.setPort rfl) (.ite (Inside.setPort rfl) (Inside.setPort rfl))
  unfold pollStop
  split
  · exact setPort_at
  · exact .ite setPort_at ((hsettled _).atPort.trans (hstopped _ _))

theorem readPoll_at (h : HostId) : AtPort h s (readPoll h s) := by
  unfold readPoll
  split
  · exact setPort_at
  · exact Inside.setPort rfl

/-! ## Attempts of the Line Engine (R96, R103 to R105) -/

theorem setEngine_inside (e : Engine) : Inside s (s.setEngine e) := rfl
theorem enterQuiet_inside (frame : Bool) : Inside s (enterQuiet frame s) := rfl

theorem copyClaimed_inside (b : BufNo) (length : Nat) : Inside s (BufferPool.copyClaimed b length s) := rfl

theorem beginAttempt_inside (i : SlotNo) (first : Bool) : Inside s (beginAttempt i first s) :=
  (Inside.of_lineOnly (ExchangeTable.takeOrder_lineOnly _ _)).after rfl

theorem attemptEnd_inside (r : AttemptResult) : Inside s (attemptEnd r s) := by
  unfold attemptEnd
  split
  · rfl
  · exact .ite rfl rfl

theorem enterIdle_inside : Inside s (enterIdle s) := by
  have happlied (t : State) : Inside t (applyStaged t) := by
    unfold applyStaged
    split <;> rfl
  exact (happlied _).after rfl

theorem replyTimerExpiry_inside : Inside s (replyTimerExpiry s) := by
  have htick (t : State) : Inside t (tickTimer t) := .ite (.ite ((attemptEnd_inside _ _).after rfl) rfl) rfl
  exact .ite (htick s) (.ite rfl ((htick _).after rfl))

theorem guardRunOut_inside : Inside s (guardRunOut s) := by
  have hretried (i : SlotNo) (t : State) : Inside t (retryOrEnd i t) :=
    .ite ((enterIdle_inside _).after rfl) ((beginAttempt_inside _ i false).after rfl)
  refine .ite (.ite rfl ?_) rfl
  split
  · exact (hretried _ _).after rfl
  · exact (enterIdle_inside _).after rfl

theorem schedulerRun_inside : Inside s (schedulerRun s) := by
  refine .ite (.ite ?_ rfl) rfl
  simp only []
  split
  · rfl
  · next c i _ => exact (beginAttempt_inside _ i true).after rfl

theorem lineReset_at (h : HostId) : AtPort h s (lineReset h s) := by
  have hsending : Inside s (resetSending s) := .ite ((Inside.of_lineOnly (ExchangeTable.cut_lineOnly _)).after rfl) rfl
  have hended (t : State) (ht : Inside s t) : AtPort h s (answer h .ok (attemptEnd .aborted t)) :=
    ((attemptEnd_inside t _).after ht).setPort
  unfold lineReset
  split
  · exact Inside.setPort rfl
  · exact Inside.setPort rfl
  · exact hsending.setPort
  · exact hended _ rfl
  · exact hended _ rfl
  · exact setPort_at

/-! ## The reports that the Line Engine takes -/

theorem takeSent_inside : Inside s (takeSent s) := by
  unfold takeSent sentInSending
  simp only []
  split
  · split
    · exact (attemptEnd_inside _ _).after rfl
    · exact .ite ((attemptEnd_inside _ _).after rfl) rfl
  · rfl

theorem takeFrameStart_inside : Inside s (takeFrameStart s) := by
  unfold takeFrameStart
  split <;> rfl

theorem strayEnd_inside (count : Stats → Stats) : Inside s (strayEnd count s) := .ite rfl (.ite rfl rfl)

theorem acceptFrame_inside (i : SlotNo) (f : FrameInfo) : Inside s (acceptFrame i f s) := by
  have hkept : Inside s (BufferPool.replyKept i f s) := (setEngine_inside _ _).after ((enterQuiet_inside _ _).after rfl)
  by_cases hbuffer : (s.slot i).replyBuffer = none ∨ f.length = 0
  · rw [BufferPool.acceptFrame_ends hbuffer]
    exact (attemptEnd_inside _ _).after hkept
  · obtain ⟨hb, hlength⟩ := not_or.1 hbuffer
    obtain ⟨b, hb⟩ := Option.ne_none_iff_exists'.1 hb
    rw [BufferPool.acceptFrame_claims hb hlength]
    exact (copyClaimed_inside _ b f.length).after hkept

theorem takeFrameComplete_inside (f : FrameInfo) : Inside s (takeFrameComplete f s) := by
  unfold takeFrameComplete completeInReceiving
  split
  · split
    · rfl
    · rfl
    · exact acceptFrame_inside s _ f
  · exact strayEnd_inside s id

theorem takeBadFrame_inside (r : BadReason) : Inside s (takeBadFrame r s) := by
  unfold takeBadFrame
  split
  · exact (attemptEnd_inside _ _).after rfl
  · exact strayEnd_inside s _

theorem takeStuck_inside : Inside s (takeStuck s) := by
  have hcounted : Inside s (FieldLine.stuckCounted s) := rfl
  have hended (t : State) : Inside t (attemptEnd .lineStuck (stopTimer (enterStuck t))) :=
    (attemptEnd_inside _ _).after ((setEngine_inside _ _).after rfl)
  unfold takeStuck
  simp only []
  split
  case h_4 => exact (hended _).after hcounted
  case h_5 => exact (hended _).after hcounted
  all_goals exact hcounted

/-- A report taken stays inside if what takes it does. -/
theorem withReport_inside {act : Report → State → Option State} (ha : ∀ r t u, act r t = some u → Inside t u) :
    Inside s (withReport s act) := by
  unfold withReport
  split
  · rfl
  · next r rest _ =>
    cases hu : act r (s.setLif { s.lif with reports := rest }) with
    | none => rfl
    | some u => exact (ha _ _ _ hu).after rfl

theorem sentReport_inside : Inside s (sentReport s) := by
  refine withReport_inside s fun r t u hu => ?_
  cases r <;> cases hu
  exact takeSent_inside t

theorem collisionReport_inside : Inside s (collisionReport s) := by
  refine withReport_inside s fun r t u hu => ?_
  cases r <;> cases hu
  exact .ite rfl rfl

theorem cutCompleteReport_inside : Inside s (cutCompleteReport s) := by
  refine withReport_inside s fun r t u hu => ?_
  cases r <;> cases hu
  exact .ite ((attemptEnd_inside _ _).after rfl) rfl

theorem frameStartReport_inside : Inside s (frameStartReport s) := by
  refine withReport_inside s fun r t u hu => ?_
  cases r <;> cases hu
  exact takeFrameStart_inside t

theorem frameCompleteReport_inside : Inside s (frameCompleteReport s) := by
  refine withReport_inside s fun r t u hu => ?_
  cases r <;> cases hu
  exact takeFrameComplete_inside t _

theorem badFrameReport_inside : Inside s (badFrameReport s) := by
  refine withReport_inside s fun r t u hu => ?_
  cases r <;> cases hu
  exact takeBadFrame_inside t _

theorem stuckReport_inside : Inside s (stuckReport s) := by
  refine withReport_inside s fun r t u hu => ?_
  cases r <;> cases hu
  exact takeStuck_inside t

theorem recoveryReport_inside : Inside s (recoveryReport s) := by
  refine withReport_inside s fun r t u hu => ?_
  cases r <;> cases hu
  exact .ite rfl rfl

/-! ## Pool, arbiter, settings and time -/

theorem bufAlloc_at (h : HostId) : AtPort h s (bufAlloc h s) := by
  have hallocated (b : BufNo) (rest : List BufNo) : AtPort h s (allocate h b rest s) :=
    .ite ((Inside.setPort rfl).trans (Inside.atPort rfl)) (Inside.setPort rfl)
  refine .ite setPort_at ?_
  split
  · exact setPort_at
  · exact hallocated _ _

theorem bufFree_at (h : HostId) : AtPort h s (bufFree h s) := by
  unfold bufFree
  split
  · exact setPort_at
  · exact .ite setPort_at (.ite setPort_at (Inside.setPort rfl))

theorem setSettings_at (h : HostId) : AtPort h s (setSettings h s) :=
  .ite setPort_at (.ite (Inside.setPort rfl) (Inside.setPort rfl))

theorem noticeCodeRead_at (h : HostId) : AtPort h s (noticeCodeRead h s) := by
  unfold noticeCodeRead
  split
  · exact setPort_at
  · exact Inside.setPort rfl

theorem setMem_inside (m : Memory) : Inside s { s with mem := m } := rfl

theorem serveClaim_at (h : HostId) (c : PortClaim) : AtPort h s (serveClaim h c s) := by
  cases c with
  | read offset =>
    simp only [serveClaim, serveRead]
    split
    · exact setPort_at
    · exact setPort_at.setPort
  | write offset value =>
    simp only [serveClaim, serveWrite]
    split
    · exact (setMem_inside _ _).atPort
    · exact setPort_at
  | clear b owned free => exact (setMem_inside _ _).setPort

theorem arbiterServe_pending : (arbiterServe s).pending = s.pending := by
  rcases arbiterServe_cases s with ⟨-, h⟩ | ⟨c, -, -, h⟩ | ⟨k, c, -, -, -, -, h⟩ | ⟨-, -, -, h⟩ <;> rw [h]
  · cases c with
    | fetch b offset => rfl
    | copy b length => exact ((attemptEnd_inside _ _).after rfl).pending
  · exact (serveClaim_at _ k c).pending

theorem tick_inside : Inside s (tick s) := by
  have hengine : Inside s (tickEngine s) := .ite rfl rfl
  exact .ite rfl (hengine.trans rfl)

/-! ## The reset pins and the release of a port -/

theorem hostPortResetAssert_at (h : HostId) : AtPort h s (hostPortResetAssert h s) := by
  have habandoned : AtPort h s (abandonAccess h s) := by
    unfold abandonAccess
    split
    · exact .ite (setPort_at.trans (Inside.atPort rfl)) setPort_at
    · exact setPort_at
  refine .ite .refl ?_
  split
  · exact setPort_at
  · exact habandoned.setPort

theorem hostPortResetRelease_at (h : HostId) : AtPort h s (hostPortResetRelease h s) := by
  refine .ite .refl ?_
  split
  · exact setPort_at
  · exact setPort_at

theorem releasePart_at {h : HostId} {part next : ReleasePart} {act : State → State} (ha : Inside s (act s)) :
    AtPort h s (releasePart h part next act s) := .ite (ha.setPort) .refl

theorem portResetPart_at (h : HostId) : AtPort h s (portResetPart h s) := .ite setPort_at .refl

/-! ## The commands issued at a port -/

theorem issue_at (h : HostId) (c : HostCommand) : AtPort h s (issue h c s) := by
  cases c with
  | bufAlloc => exact bufAlloc_at s h
  | bufFree => exact bufFree_at s h
  | submit => exact submit_at s h
  | cancel => exact cancel_at s h
  | readExchange => exact readExchange_at s h
  | readStation => exact readStation_at s h
  | subscribe => exact subscribe_at s h
  | unsubscribe => exact unsubscribe_at s h
  | revive => exact revive_at s h
  | hold => exact hold_at s h
  | release => exact release_at s h
  | pollStart => exact pollStart_at s h
  | pollRetime => exact pollRetime_at s h
  | pollStop => exact pollStop_at s h
  | readPoll => exact readPoll_at s h
  | popCompletion => exact popCompletion_at s h
  | setSettings => exact setSettings_at s h
  | readSettings => exact setPort_at
  | lineReset => exact lineReset_at s h
  | readLine => exact setPort_at
  | clearStats => exact Inside.setPort rfl

theorem commandWrite_at (h : HostId) (code : Byte) : AtPort h s (commandWrite h code s) := by
  unfold commandWrite
  split
  · exact setPort_at
  · exact issue_at s h _

theorem locationWrite_at (h : HostId) (location : BitVec 7) (value : Byte) : AtPort h s (locationWrite h location value s) := by
  unfold locationWrite
  split_ifs
  · exact setPort_at
  · exact setPort_at
  · exact commandWrite_at s h value
  · exact Inside.atPort rfl
  · split
    · exact setPort_at
    · exact .refl

theorem portStatusRead_at (h : HostId) : AtPort h s (portStatusRead h s) := setPort_at.setPort

theorem powerOnResetRelease_inside : Inside s (powerOnResetRelease s) := .ite rfl rfl

end

/-! ## Every command -/

/-- A command goes on with the commands to come as they are, and, if it is an access at a port, with every other port as it is. -/
def NextAt (p : Option HostId) (s : State) (o : Host.Outcome State Fault Refusal) : Prop :=
  ∃ t, o = .next t ∧ t.pending = s.pending ∧ ∀ h, p = some h → otherPortsSame h s t

section
variable {s : State}

theorem event_at {t : State} (ht : t.pending = s.pending) : NextAt none s (.next t) := ⟨t, rfl, ht, fun _ hh => nomatch hh⟩

theorem internal_at {act : State → State} (ha : (act s).pending = s.pending) : NextAt none s (internal s act) := by
  refine event_at ?_
  split
  · rfl
  · exact ha

/-- An event of the Line Interface. -/
theorem line_at {act : State → State} (ha : ExchangeTable.LineOnly s (act s)) : NextAt none s (internal s act) :=
  internal_at (Inside.of_lineOnly ha).pending

/-- A part of a release, by what the block does in it. -/
theorem part_at {h : HostId} {part next : ReleasePart} {act : State → State} (ha : Inside s (act s)) :
    NextAt none s (internal s (releasePart h part next act)) := internal_at (releasePart_at s ha).pending

/-- An access that is served, abandoned, or waits at its port. -/
theorem served_at {c : Instr} {h : HostId} {act : State → State} (ha : AtPort h s (act s)) :
    NextAt (some h) s (served c h s act) := by
  obtain ⟨hpending, hothers⟩ : AtPort h s (if portServes h s then act s else if portRefuses h s then s else waitAtPort c h s) :=
    .ite ha (.ite .refl setPort_at)
  exact ⟨_, rfl, hpending, fun k hk => Option.some.inj hk ▸ hothers⟩

end

/-- Every command, by whose it is: a host's, given at its port, or an event. -/
theorem exec_at (c : Instr) (s : State) : NextAt (portAccess c) s (exec c s) := by
  cases c with
  | bufAlloc h => exact served_at (bufAlloc_at s h)
  | bufFree h => exact served_at (bufFree_at s h)
  | submit h => exact served_at (submit_at s h)
  | cancel h => exact served_at (cancel_at s h)
  | readExchange h => exact served_at (readExchange_at s h)
  | readStation h => exact served_at (readStation_at s h)
  | subscribe h => exact served_at (subscribe_at s h)
  | unsubscribe h => exact served_at (unsubscribe_at s h)
  | revive h => exact served_at (revive_at s h)
  | hold h => exact served_at (hold_at s h)
  | release h => exact served_at (release_at s h)
  | pollStart h => exact served_at (pollStart_at s h)
  | pollRetime h => exact served_at (pollRetime_at s h)
  | pollStop h => exact served_at (pollStop_at s h)
  | readPoll h => exact served_at (readPoll_at s h)
  | popCompletion h => exact served_at (popCompletion_at s h)
  | setSettings h => exact served_at (setSettings_at s h)
  | readSettings h => exact served_at setPort_at
  | lineReset h => exact served_at (lineReset_at s h)
  | readLine h => exact served_at setPort_at
  | clearStats h => exact served_at (Inside.setPort rfl)
  | badCommand h code => exact served_at (commandWrite_at s h code)
  | noticeCodeRead h => exact served_at (noticeCodeRead_at s h)
  | noticeMaskWrite h value => exact served_at (Inside.atPort rfl)
  | portStatusRead h => exact served_at (portStatusRead_at s h)
  | portRegisterWrite h location value => exact served_at (locationWrite_at s h location value)
  | windowRead h offset => exact served_at setPort_at
  | windowWrite h offset value => exact served_at setPort_at
  | arbiterServe => exact internal_at (arbiterServe_pending s)
  | powerOnReset => exact event_at rfl
  | hostPortResetAssert h => exact event_at (hostPortResetAssert_at s h).pending
  | hostPortResetRelease h => exact event_at (hostPortResetRelease_at s h).pending
  | xtabResetPart h => exact part_at (resetSlots_inside s h)
  | bpoolResetPart h => exact part_at rfl
  | plstResetPart h => exact part_at (resetEntries_inside s h)
  | stabResetPart h => exact part_at (resetStations_inside s h)
  | cqResetPart h => exact part_at rfl
  | nctlResetPart h => exact part_at rfl
  | portResetPart h => exact internal_at (portResetPart_at s h).pending
  | tick => exact internal_at (tick_inside s).pending
  | replyTimerExpiry => exact internal_at (replyTimerExpiry_inside s).pending
  | leaseExpiry n => exact internal_at (leaseExpiry_inside s n).pending
  | pollDue e => exact internal_at (pollDue_inside s e).pending
  | guardRunOut => exact internal_at (guardRunOut_inside s).pending
  | schedulerRun => exact internal_at (schedulerRun_inside s).pending
  | openingBreakEnd => exact line_at (ExchangeTable.openingBreakEnd_lineOnly s)
  | characterSent => exact line_at (ExchangeTable.characterSent_lineOnly s)
  | echoCollision => exact line_at (ExchangeTable.echoCollision_lineOnly s)
  | frameSent => exact line_at (ExchangeTable.frameSent_lineOnly s)
  | cutBreakEnd => exact line_at (ExchangeTable.cutBreakEnd_lineOnly s)
  | breakDetected => exact line_at (ExchangeTable.breakDetected_lineOnly s)
  | breakEnd => exact line_at (ExchangeTable.breakEnd_lineOnly s)
  | characterTaken value => exact line_at (ExchangeTable.characterTaken_lineOnly s value)
  | framingError => exact line_at (ExchangeTable.framingError_lineOnly s)
  | gapLimit => exact line_at (ExchangeTable.gapLimit_lineOnly s)
  | stuckDetected => exact line_at (ExchangeTable.stuckDetected_lineOnly s)
  | lineRecovered => exact line_at (ExchangeTable.lineRecovered_lineOnly s)
  | halfBitSample => exact line_at (ExchangeTable.halfBitSample_lineOnly s)
  | markToSpaceEdge => exact event_at (Inside.of_lineOnly (ExchangeTable.markToSpaceEdge_lineOnly s)).pending
  | spaceToMarkEdge => exact event_at (Inside.of_lineOnly (ExchangeTable.spaceToMarkEdge_lineOnly s)).pending
  | sentReport => exact internal_at (sentReport_inside s).pending
  | collisionReport => exact internal_at (collisionReport_inside s).pending
  | cutCompleteReport => exact internal_at (cutCompleteReport_inside s).pending
  | frameStartReport => exact internal_at (frameStartReport_inside s).pending
  | frameCompleteReport => exact internal_at (frameCompleteReport_inside s).pending
  | badFrameReport => exact internal_at (badFrameReport_inside s).pending
  | stuckReport => exact internal_at (stuckReport_inside s).pending
  | recoveryReport => exact internal_at (recoveryReport_inside s).pending
  | exchangeEndTaken => exact internal_at (exchangeEndTaken_inside s).pending
  | exchangeEndReport => exact internal_at (exchangeEndReport_inside s).pending
  | stationFlush => exact internal_at (stationFlush_inside s).pending
  | instanceEnd => exact internal_at (instanceEnd_inside s).pending
  | powerOnResetRelease => exact event_at (powerOnResetRelease_inside s).pending

/-- Settles O13: an access answers one next state, in which only its own port may differ. -/
theorem portsAreKeptApart : Obligations.PortsAreKeptApart := by
  intro c h s t hc ht
  obtain ⟨u, hu, -, hothers⟩ := exec_at c s
  obtain rfl : u = t := Host.Outcome.next.inj (hu.symm.trans ht)
  exact hothers h hc

/-! ## What an access under a reset and an event under power-on reset do -/

section
variable {c : Instr} {h : HostId}

/-- An access is served, abandoned or kept waiting at its port, whatever its work. -/
theorem exec_access (hc : portAccess c = some h) : ∃ act, ∀ s, exec c s = served c h s act := by
  cases c <;> cases hc <;> exact ⟨_, fun _ => rfl⟩

/-- A command of no port is a change of an input pin or happens inside the part. -/
theorem exec_event (hc : portAccess c = none) : pinEvent c ∨ ∃ act, ∀ s, exec c s = internal s act := by
  cases c with
  | powerOnReset => exact .inl (.inl rfl)
  | powerOnResetRelease => exact .inl (.inr (.inl rfl))
  | markToSpaceEdge => exact .inl (.inr (.inr (.inl rfl)))
  | spaceToMarkEdge => exact .inl (.inr (.inr (.inr (.inl rfl))))
  | hostPortResetAssert h => exact .inl (.inr (.inr (.inr (.inr (.inl ⟨h, rfl⟩)))))
  | hostPortResetRelease h => exact .inl (.inr (.inr (.inr (.inr (.inr ⟨h, rfl⟩)))))
  | _ => cases hc <;> exact .inr ⟨_, fun _ => rfl⟩

theorem portRefuses_iff (h : HostId) (s : State) :
    portRefuses h s = true ↔ s.porst = true ∨ (s.port h).pin = true ∨ (s.port h).phase = .held := by
  simp [portRefuses, or_assoc]

end

/-- Settles O3: what every command keeps, then an access that is not served, then an event that does not happen. -/
theorem commandsGoOnAndUnservedChangeNothing : Obligations.CommandsGoOnAndUnservedChangeNothing := by
  refine ⟨fun c s => ?_, fun c h s hc hs => ?_, fun c s hc hpin hp => ?_⟩
  · obtain ⟨t, ht, hpending, -⟩ := exec_at c s
    exact ⟨t, ht, hpending⟩
  · obtain ⟨act, hexec⟩ := exec_access hc
    obtain ⟨habandoned, hwaits⟩ := served_unserved (c := c) (act := act) hs
    rw [hexec]
    exact ⟨fun hr => habandoned ((portRefuses_iff h s).2 hr),
      fun hr => hwaits (Bool.eq_false_iff.2 fun hheld => hr ((portRefuses_iff h s).1 hheld))⟩
  · obtain ⟨act, hexec⟩ := (exec_event hc).resolve_left hpin
    rw [hexec]
    exact internal_spec.2 hp

end Sys2Proof.HostPorts
end

section
/-! A step with a command waiting (spec/95, first lines); the step on an empty queue stands in `FieldLine.step_empty`. -/

namespace Sys2Proof.CommandQueue

open Sys2Proof.Machine

/-- The command at the front is taken before it runs, so its meaning sees only the rest of the queue. -/
theorem step_front {s : State} {c : Instr} {rest : List Instr} (hs : s.pending = c :: rest) :
    step s = exec c { s with pending := rest } := by
  rw [step, hs]

/-- Settles O1: the front command of a state whose queue is written out. -/
theorem stepRunsTheFrontCommand : Obligations.StepRunsTheFrontCommand := by
  intro c rest s
  exact step_front rfl

end Sys2Proof.CommandQueue
end
